-- ==== Sys2Proof/Word.lean ====
section
/-!
DEFINITION. The value types of the FRWC: bytes, byte strings and the unsigned integers the wire uses
(spec/00_scope.md rule R8; widths 8, 32 and 64 bits only, all unsigned).
-/

namespace Sys2Proof

/-- A byte, an unsigned integer 0..255 (R8). -/
abbrev Byte := BitVec 8

/-- A finite sequence of bytes, the first one the first on the wire (R8, R9). -/
abbrev Bytes := List Byte

/-- `u32` of R8. -/
abbrev U32 := BitVec 32

/-- `u64` of R8. -/
abbrev U64 := BitVec 64

/-- A byte string of exactly four bytes: the magic and the checksum (R32, R47), `b0` the first on the
wire. -/
structure Quad where
  b0 : Byte
  b1 : Byte
  b2 : Byte
  b3 : Byte
deriving DecidableEq, Repr

end Sys2Proof
end

