-- ==== Sys2Proof/Syntax.lean ====
section
/-!
DEFINITION. The records that commands take (spec/10_state.md rules R30 to R33), the instructions (one
constructor per row of spec/opcode_table.json), and the requests the host puts to the block
(spec/30_encoding.md rules R60 to R62).
-/

namespace Sys2Proof

/-- The three unsigned 32-bit version components (R30). -/
structure Version where
  major : U32
  minor : U32
  patch : U32
deriving DecidableEq, Repr

/-- A declared address (R31): 4 address bytes (IPv4) or 16 (IPv6, decode only), and the port as the u32
the wire carries. -/
structure DeclAddress where
  ip   : Bytes
  port : U32
deriving DecidableEq, Repr

/-- The Handshake record, fields in wire order (R30). Names are byte strings (R31). -/
structure Handshake where
  appName     : Bytes
  version     : Version
  nodeName    : Bytes
  nonce       : U64
  declAddress : Option DeclAddress
  timestamp   : U64
deriving DecidableEq, Repr

/-- The Header record (R32). -/
structure Header where
  packetLength  : U32
  magic         : Quad
  contentId     : Byte
  payloadLength : U32
  checksum      : Option Quad
deriving DecidableEq, Repr

/-- One entry of a peer list (R33); the port is a full u32. -/
structure Peer where
  ip   : Bytes
  port : U32
deriving DecidableEq, Repr

/-- The instructions: the 19 commands of R72 with the operands of their rows, and the 11 content-ids of
R70. A content-id is an entry of the MessageCodec's payload decoder table (R142); its operand is the byte
string that follows the header, to which the entry is applied (log entry 6). -/
inductive Instr where
  /-- RESET, R220. -/
  | reset
  /-- BE_ENC1, R102. -/
  | beEnc1 (v : Byte)
  /-- BE_ENC4, R103. -/
  | beEnc4 (v : U32)
  /-- BE_ENC8, R104. -/
  | beEnc8 (v : U64)
  /-- BE_DEC1, R105. -/
  | beDec1 (b : Bytes)
  /-- BE_DEC4, R106. -/
  | beDec4 (b : Bytes)
  /-- BE_DEC8, R107. -/
  | beDec8 (b : Bytes)
  /-- CKSUM, R160. -/
  | cksum (b : Bytes)
  /-- ADDR_ENC, R170. -/
  | addrEnc (a : Peer)
  /-- ADDR_DEC, R171. -/
  | addrDec (b : Bytes)
  /-- HS_ENC, R110. -/
  | hsEnc (h : Handshake)
  /-- HS_DEC, R111. -/
  | hsDec (b : Bytes)
  /-- HDR_ENC, R130. -/
  | hdrEnc (h : Header)
  /-- HDR_DEC, R131. -/
  | hdrDec (b : Bytes)
  /-- MSG_ENC, R140. -/
  | msgEnc (cid : Byte) (payload : Bytes)
  /-- MSG_DEC, R141. -/
  | msgDec (b : Bytes)
  /-- PEERS_ENC, R172. -/
  | peersEnc (ps : List Peer)
  /-- PEERS_DEC, R173. -/
  | peersDec (b : Bytes)
  /-- RX_CHUNK, R191. -/
  | rxChunk (c : Bytes)
  /-- CID_getPeers 0x01, R70. -/
  | cidGetPeers (rest : Bytes)
  /-- CID_peers 0x02, R70 and R142. -/
  | cidPeers (rest : Bytes)
  /-- CID_signatures 0x15, R70. -/
  | cidSignatures (rest : Bytes)
  /-- CID_getBlock 0x16, R70. -/
  | cidGetBlock (rest : Bytes)
  /-- CID_block 0x17, R70. -/
  | cidBlock (rest : Bytes)
  /-- CID_score 0x18, R70. -/
  | cidScore (rest : Bytes)
  /-- CID_transaction 0x19, R70. -/
  | cidTransaction (rest : Bytes)
  /-- CID_invMicroblock 0x1A, R70. -/
  | cidInvMicroblock (rest : Bytes)
  /-- CID_microblockRequest 0x1B, R70. -/
  | cidMicroblockRequest (rest : Bytes)
  /-- CID_microblock 0x1C, R70. -/
  | cidMicroblock (rest : Bytes)
  /-- CID_checkpoint 0x64, R70. -/
  | cidCheckpoint (rest : Bytes)
deriving DecidableEq, Repr

/-- The operands of a request: one typed value for each operand type of R62 and R72. A command takes the
values its row names and reads no other. FRWC-1 fixes no serialization of operands (R62); this bundle is
the model's form of "typed values" (DESIGN CHOICE, log entry 5). -/
structure Operands where
  u8        : Byte
  u32       : U32
  u64       : U64
  bytes     : Bytes
  peer      : Peer
  handshake : Handshake
  header    : Header
  peers     : List Peer
deriving DecidableEq, Repr

/-- Every operand zero, empty or absent. -/
def Operands.zero : Operands where
  u8 := 0
  u32 := 0
  u64 := 0
  bytes := []
  peer := ⟨[], 0⟩
  handshake := ⟨[], ⟨0, 0, 0⟩, [], 0, none, 0⟩
  header := ⟨0, ⟨0, 0, 0, 0⟩, 0, 0, none⟩
  peers := []

/-- Which encoding space a request's byte belongs to: the command map (R72), which is all the host has,
or the content-id map of the MessageCodec (R70), through which the model runs one entry of the payload
decoder table by itself (DESIGN CHOICE, log entry 6). -/
inductive Port where
  | command
  | contentId
deriving DecidableEq, Repr

/-- What a step takes in: a byte of one of the two encoding spaces, and the operands. -/
structure Request where
  port : Port
  op   : Byte
  args : Operands
deriving DecidableEq, Repr

end Sys2Proof
end

