-- ==== Sys2Proof/Decode.lean ====
section
/-!
DEFINITION. The decoder of requests, from the bit fields of the opcode byte (spec/30_encoding.md rule
R61), the encoder, from the command map (R72) and the content-id map (R70), and the reading of a word of
spec/opcode_table.json.
-/

namespace Sys2Proof

/-! ## The fields of the opcode byte (R61) -/

/-- `op[7:4]`, the unit. -/
def opUnit (op : Byte) : Nat := (op.extractLsb' 4 4).toNat

/-- `op[3]`, the direction: in units 1 and 3..7 encode when clear, decode when set. -/
def opDir (op : Byte) : Bool := op.getLsbD 3

/-- `op[2]`, reserved, must be 0. -/
def opReserved (op : Byte) : Bool := op.getLsbD 2

/-- `op[1:0]`, the width code. -/
def opWidth (op : Byte) : Nat := (op.extractLsb' 0 2).toNat

/-- Why a byte is no command, or no listed content-id. The block answers every illegal opcode alike
(R221); the names are the model's (log entry 13). -/
inductive Reject where
  /-- `op[2]` is set (R61, R73). -/
  | reservedBit (op : Byte)
  /-- `op[7:4]` is 9..15 (R61, R73). -/
  | reservedUnit (op : Byte)
  /-- `op[3]` is set in unit 0, 2 or 8, where it must be 0 (R61). -/
  | reservedDir (op : Byte)
  /-- `op[1:0]` is not a width code of the unit (R61, R73). -/
  | reservedWidth (op : Byte)
  /-- Not an error (R71, R241): a content-id that R70 does not list. -/
  | unlistedContentId (cid : Byte)
deriving DecidableEq, Repr

/-- A unit with an encode and a decode command, where the width code must be 00 (R61). -/
def decodePair (op : Byte) (enc dec : Instr) : Except Reject Instr :=
  if opWidth op ≠ 0 then .error (.reservedWidth op)
  else if opDir op then .ok dec
  else .ok enc

/-- A unit with one command: the direction must be 0 and the width code `w` (R61). -/
def decodeSingle (op : Byte) (w : Nat) (i : Instr) : Except Reject Instr :=
  if opDir op then .error (.reservedDir op)
  else if opWidth op ≠ w then .error (.reservedWidth op)
  else .ok i

/-- Unit 1, the integer codec: width codes 00, 01 and 10 select 1, 4 and 8 bytes, 11 is reserved (R61). -/
def decodeInteger (op : Byte) (a : Operands) : Except Reject Instr :=
  match opWidth op with
  | 0 => .ok (if opDir op then .beDec1 a.bytes else .beEnc1 a.u8)
  | 1 => .ok (if opDir op then .beDec4 a.bytes else .beEnc4 a.u32)
  | 2 => .ok (if opDir op then .beDec8 a.bytes else .beEnc8 a.u64)
  | _ => .error (.reservedWidth op)

/-- The command an opcode byte stands for (R61, R72, R73). -/
def decodeCommand (op : Byte) (a : Operands) : Except Reject Instr :=
  if opReserved op then .error (.reservedBit op)
  else match opUnit op with
  | 0 => decodeSingle op 1 .reset
  | 1 => decodeInteger op a
  | 2 => decodeSingle op 0 (.cksum a.bytes)
  | 3 => decodePair op (.addrEnc a.peer) (.addrDec a.bytes)
  | 4 => decodePair op (.hsEnc a.handshake) (.hsDec a.bytes)
  | 5 => decodePair op (.hdrEnc a.header) (.hdrDec a.bytes)
  | 6 => decodePair op (.msgEnc a.u8 a.bytes) (.msgDec a.bytes)
  | 7 => decodePair op (.peersEnc a.peers) (.peersDec a.bytes)
  | 8 => decodeSingle op 0 (.rxChunk a.bytes)
  | _ => .error (.reservedUnit op)

/-- The listed content-id a byte stands for (R70), applied to the bytes after the header. The two ids the
source writes without a radix are decimal 27 and 28 (spec/90_conflicts.md C12). -/
def decodeContentId (cid : Byte) (rest : Bytes) : Except Reject Instr :=
  match cid.toNat with
  | 1 => .ok (.cidGetPeers rest)
  | 2 => .ok (.cidPeers rest)
  | 21 => .ok (.cidSignatures rest)
  | 22 => .ok (.cidGetBlock rest)
  | 23 => .ok (.cidBlock rest)
  | 24 => .ok (.cidScore rest)
  | 25 => .ok (.cidTransaction rest)
  | 26 => .ok (.cidInvMicroblock rest)
  | 27 => .ok (.cidMicroblockRequest rest)
  | 28 => .ok (.cidMicroblock rest)
  | 100 => .ok (.cidCheckpoint rest)
  | _ => .error (.unlistedContentId cid)

/-- The instruction a request stands for, or why it stands for none. -/
def decode (r : Request) : Except Reject Instr :=
  match r.port with
  | .command => decodeCommand r.op r.args
  | .contentId => decodeContentId r.op r.args.bytes

/-! ## The encoder (R72, R70) -/

/-- A command's request: its opcode byte, the operands its row names, every other operand zero. -/
def commandRequest (op : Byte) (args : Operands) : Request := ⟨.command, op, args⟩

/-- A content-id's request: header byte 8 and the bytes after the header. -/
def contentIdRequest (cid : Byte) (rest : Bytes) : Request :=
  ⟨.contentId, cid, { Operands.zero with bytes := rest }⟩

/-- The request that stands for an instruction, written from the `op` column of R72 and the `value`
column of R70. -/
def encode : Instr → Request
  | .reset => commandRequest 0x01 Operands.zero
  | .beEnc1 v => commandRequest 0x10 { Operands.zero with u8 := v }
  | .beEnc4 v => commandRequest 0x11 { Operands.zero with u32 := v }
  | .beEnc8 v => commandRequest 0x12 { Operands.zero with u64 := v }
  | .beDec1 b => commandRequest 0x18 { Operands.zero with bytes := b }
  | .beDec4 b => commandRequest 0x19 { Operands.zero with bytes := b }
  | .beDec8 b => commandRequest 0x1A { Operands.zero with bytes := b }
  | .cksum b => commandRequest 0x20 { Operands.zero with bytes := b }
  | .addrEnc a => commandRequest 0x30 { Operands.zero with peer := a }
  | .addrDec b => commandRequest 0x38 { Operands.zero with bytes := b }
  | .hsEnc h => commandRequest 0x40 { Operands.zero with handshake := h }
  | .hsDec b => commandRequest 0x48 { Operands.zero with bytes := b }
  | .hdrEnc h => commandRequest 0x50 { Operands.zero with header := h }
  | .hdrDec b => commandRequest 0x58 { Operands.zero with bytes := b }
  | .msgEnc cid p => commandRequest 0x60 { Operands.zero with u8 := cid, bytes := p }
  | .msgDec b => commandRequest 0x68 { Operands.zero with bytes := b }
  | .peersEnc ps => commandRequest 0x70 { Operands.zero with peers := ps }
  | .peersDec b => commandRequest 0x78 { Operands.zero with bytes := b }
  | .rxChunk c => commandRequest 0x80 { Operands.zero with bytes := c }
  | .cidGetPeers b => contentIdRequest 0x01 b
  | .cidPeers b => contentIdRequest 0x02 b
  | .cidSignatures b => contentIdRequest 0x15 b
  | .cidGetBlock b => contentIdRequest 0x16 b
  | .cidBlock b => contentIdRequest 0x17 b
  | .cidScore b => contentIdRequest 0x18 b
  | .cidTransaction b => contentIdRequest 0x19 b
  | .cidInvMicroblock b => contentIdRequest 0x1A b
  | .cidMicroblockRequest b => contentIdRequest 0x1B b
  | .cidMicroblock b => contentIdRequest 0x1C b
  | .cidCheckpoint b => contentIdRequest 0x64 b

/-- The 19 opcode values of R72, in the table's order. -/
def commandOpcodes : List Byte :=
  [0x01, 0x10, 0x11, 0x12, 0x18, 0x19, 0x1A, 0x20, 0x30, 0x38, 0x40, 0x48, 0x50, 0x58, 0x60, 0x68,
   0x70, 0x78, 0x80]

/-- Each instruction's mnemonic, as spec/opcode_table.json spells it. -/
def Instr.mnemonic : Instr → String
  | .reset => "RESET"
  | .beEnc1 _ => "BE_ENC1"
  | .beEnc4 _ => "BE_ENC4"
  | .beEnc8 _ => "BE_ENC8"
  | .beDec1 _ => "BE_DEC1"
  | .beDec4 _ => "BE_DEC4"
  | .beDec8 _ => "BE_DEC8"
  | .cksum _ => "CKSUM"
  | .addrEnc _ => "ADDR_ENC"
  | .addrDec _ => "ADDR_DEC"
  | .hsEnc _ => "HS_ENC"
  | .hsDec _ => "HS_DEC"
  | .hdrEnc _ => "HDR_ENC"
  | .hdrDec _ => "HDR_DEC"
  | .msgEnc _ _ => "MSG_ENC"
  | .msgDec _ => "MSG_DEC"
  | .peersEnc _ => "PEERS_ENC"
  | .peersDec _ => "PEERS_DEC"
  | .rxChunk _ => "RX_CHUNK"
  | .cidGetPeers _ => "CID_getPeers"
  | .cidPeers _ => "CID_peers"
  | .cidSignatures _ => "CID_signatures"
  | .cidGetBlock _ => "CID_getBlock"
  | .cidBlock _ => "CID_block"
  | .cidScore _ => "CID_score"
  | .cidTransaction _ => "CID_transaction"
  | .cidInvMicroblock _ => "CID_invMicroblock"
  | .cidMicroblockRequest _ => "CID_microblockRequest"
  | .cidMicroblock _ => "CID_microblock"
  | .cidCheckpoint _ => "CID_checkpoint"

/-! ## Words of spec/opcode_table.json -/

/-- The request a word of the opcode table stands for, with every operand zero (R62 gives operands no
bits). The table holds two encoding spaces: a byte that is a command (R72) is taken as that command, and
any other byte as a content-id (R70); the four words both spaces list (0x01, 0x18, 0x19, 0x1A) are the
commands. This choice is about the table's words alone: what the host issues on the command port is
decoded as a command only, so that opcodes such as 0x02 and 0x1B stay illegal there (R73, R221; log
entry 6). -/
def tableRequest (w : Nat) : Request :=
  let op := BitVec.ofNat 8 w
  if commandOpcodes.contains op then ⟨.command, op, Operands.zero⟩
  else ⟨.contentId, op, Operands.zero⟩

/-- The instruction the decoder reads from a word of the opcode table; every word has 8 bits. -/
def decodeTableWord (nbits w : Nat) : Option Instr :=
  if nbits = 8 ∧ w < 256 then
    match decode (tableRequest w) with
    | .ok i => some i
    | .error _ => none
  else none

end Sys2Proof
end

