-- ==== Sys2Proof/Config.lean ====
section
/-!
DEFINITION. The parameters of one FRWC (spec/00_scope.md rule R7): what is fixed when the block is
built. `MAX_FRAME` is plain data that State carries and no command writes (log entry 3); the hash `H` is
an opaque constant (log entry 4); the others are fixed by R7's table.
-/

namespace Sys2Proof.Config

/-- The build-time parameters that one FRWC carries: `MAX_FRAME`, with `none` for `INF` (R7, D5). -/
structure Params where
  maxFrame : Option Nat
deriving DecidableEq, Repr

/-- The legal values of `MAX_FRAME`: `INF`, or a natural number of at least 17 (R7). -/
abbrev Params.WF (p : Params) : Prop := ∀ m ∈ p.maxFrame, 17 ≤ m

/-- `MAX_FRAME = INF`, the default of R7. -/
def defaultParams : Params := ⟨none⟩

/-- `H`, the 256-bit hash the ChecksumEngine truncates: any total function from byte strings to 32
bytes (R7, R161, D6). It has no body, so no proof can learn a value of it; a claim about checksum values
assumes `Sys2Proof.Machine.HashIsBlake2b256`. DESIGN CHOICE of the spec (D6), log entry 4. -/
opaque hash : Bytes → Vector Byte 32

/-- `NAME_MAX`: the longest appName or nodeName (R7). -/
def nameMax : Nat := 255

/-- `MAGIC`: the bytes `12 34 56 78` (R7). -/
def magic : Quad := ⟨0x12, 0x34, 0x56, 0x78⟩

/-- `ADDR4_LEN` (R7). -/
def addr4Len : Nat := 4

/-- `ADDR16_LEN`, decode only (R7). -/
def addr16Len : Nat := 16

/-- `PORT_MAX`: the largest valid port (R7). -/
def portMax : Nat := 65535

end Sys2Proof.Config
end

