-- ==== Sys2Proof/Machine/State.lean ====
section
/-!
DEFINITION. What commands return (spec/10_state.md rules R28, R34, R35; spec/60_exceptions.md rule R240)
and the machine's state as plain data (R20 to R24, R29), with its value after reset
(spec/70_reset_and_hazards.md rule R270; log entries 7 and 14).
-/

namespace Sys2Proof.Machine

/-- The error codes of R240, in the order of their numbers (`Status.code` in Flags.lean). -/
inductive ErrorCode where
  | messageTooShort
  | invalidAddressLength
  /-- In the taxonomy, never raised in FRWC-1 (R112). -/
  | invalidAddress
  | invalidPort
  | nameTooLong
  | unsupportedAddress
  | lengthOverflow
  | frameTooLarge
  | illegalCommand
  | invalidRecord
deriving DecidableEq, Repr

/-- The status a command ends with: `OK` or an error code, and nothing else (R240; 93 I14). -/
inductive Status where
  | ok
  | error (e : ErrorCode)
deriving DecidableEq, Repr

/-- The tagged union of R34. -/
inductive Payload where
  | none
  | peers (ps : List Peer)
  | opaqueBytes (b : Bytes)
deriving DecidableEq, Repr

/-- The payload kinds of R28 and R34. -/
inductive PayloadKind where
  | none
  | peers
  | opaqueBytes
deriving DecidableEq, Repr

/-- The Message record (R35). -/
structure Message where
  header  : Header
  payload : Payload
deriving DecidableEq, Repr

/-- One output item of `RX_CHUNK` (R35). -/
inductive Event where
  /-- The first chunk decoded as a handshake (R192). -/
  | handshake (status : Status) (value : Option Handshake) (consumed : Nat)
  /-- One frame and the result of `MSG_DEC` on it (R194). -/
  | frame (bytes : Bytes) (status : Status) (value : Option Message)
  /-- The reassembler stopped (R195); the status is always `FrameTooLarge`. -/
  | fault (status : Status) (targetLength : BitVec 33)
deriving DecidableEq, Repr

/-- The result value of a command that ends with `OK` (the `result` column of R72). -/
inductive Result where
  | bytes (b : Bytes)
  | u8 (v : Byte)
  | u32 (v : U32)
  | u64 (v : U64)
  | peer (a : Peer)
  | handshake (h : Handshake) (consumed : Nat)
  | header (h : Header) (size : Nat)
  | message (m : Message)
  | peers (ps : List Peer)
  | events (es : List Event)
  /-- What an entry of the payload decoder table gives (R142). -/
  | payload (p : Payload)
deriving DecidableEq, Repr

/-- A command's answer: its status and, when it ends with `OK` and its row lists one, its result (R60,
R242). -/
structure Answer where
  status : Status
  result : Option Result
deriving DecidableEq, Repr

/-- The 1-bit mode of R21. -/
inductive RxMode where
  /-- Value 0: the next non-empty chunk is the handshake reply. -/
  | handshake
  /-- Value 1: chunks go to the reassembler. -/
  | framed
deriving DecidableEq, Repr

/-- The source's names for the reassembler's states, both functions of `TARGET` (R26). -/
inductive Phase where
  | awaitingFirstByte
  | accumulating
deriving DecidableEq, Repr

/-- What stops the machine with a fault: nothing does, so the type has no constructor. Every failure of
the block is a status of an answer, and there are no traps (R242, R245, R246). Safe: there is no fault
that a claim could be vacuous over. -/
inductive Fault where
deriving DecidableEq, Repr

/-- Why the model gives a request no meaning. -/
inductive Refusal where
  /-- Raised by an arm of `exec` for an instruction that has no meaning yet. No arm raises it: every
  instruction has its meaning. Safe: a refusal proves nothing about the hardware. -/
  | notModelled (mnemonic : String)
deriving DecidableEq, Repr

/-- The state of one FRWC. The first four fields are the whole architectural state (R20); the other three
are the model's own. -/
structure State where
  /-- `RX_MODE` (R21). -/
  rxMode  : RxMode
  /-- `BUF`, the reassembly buffer (R22). -/
  buf     : Bytes
  /-- `TARGET`, 33 bits, 0 for unset (R23). -/
  target  : BitVec 33
  /-- `FAULT`, sticky (R24). -/
  fault   : Bool
  /-- The build-time parameters (R7, R29); no command writes them (log entry 3). -/
  params  : Config.Params
  /-- The requests the host will issue, oldest first (R27, R60; log entry 1). -/
  pending : List Request
  /-- The answer to the most recent request: an output that no command reads (R28; log entry 2). -/
  answer  : Option Answer
deriving DecidableEq, Repr

/-- Power-on of a block built with the given parameters (R270). -/
def State.powerOn (p : Config.Params) : State where
  rxMode := .handshake
  buf := []
  target := 0
  fault := false
  params := p
  pending := []
  answer := none

/-- The machine right after reset (R21 to R24, R270), with `MAX_FRAME` at its default `INF` (R7). -/
def State.reset : State := State.powerOn Config.defaultParams

end Sys2Proof.Machine
end

