-- ==== Sys2Proof/Machine/Ops.lean ====
section
/-!
DEFINITION. The shared operations: the big-endian functions (spec/40_integer_codec.md rules R100, R101),
the buffer primitives (spec/20_memory.md rule R42), and the two ways a command ends
(spec/00_scope.md rule R10; spec/60_exceptions.md rule R242). There is no trap entry and no return from
one: an error is an answer (R245, R246).
-/

namespace Sys2Proof.Machine

/-! ## Big-endian integers -/

/-- `be_n(v)` (R100): byte `i` of the `n` bytes holds bits `8(n-1-i)+7 .. 8(n-1-i)` of `v`. It is applied
only where `v < 2^(8n)`. -/
def beBytes : Nat → Nat → Bytes
  | 0, _ => []
  | n + 1, v => BitVec.ofNat 8 (v / 256 ^ n) :: beBytes n v

/-- The big-endian value of a whole byte string: the first byte is the most significant (R43, R101). -/
def beValue (b : Bytes) : Nat :=
  b.foldl (fun acc x => acc * 256 + x.toNat) 0

/-- `b[i ..< j]` (R9). -/
def byteSlice (b : Bytes) (i j : Nat) : Bytes := (b.drop i).take (j - i)

/-- `rd_be(b, off, n)` (R101); every use has checked `off + n ≤ len(b)`. -/
def rdBe (b : Bytes) (off n : Nat) : Nat := beValue (byteSlice b off (off + n))

/-- A one-byte integer on the wire. -/
def be8Bits (v : Byte) : Bytes := beBytes 1 v.toNat

/-- A u32 on the wire (R43). -/
def be32Bits (v : U32) : Bytes := beBytes 4 v.toNat

/-- A u64 on the wire (R43). -/
def be64Bits (v : U64) : Bytes := beBytes 8 v.toNat

/-! ## The buffer primitives (R42) -/

/-- `BufRead(off, n)`. -/
def bufRead (s : State) (off n : Nat) : Nat := rdBe s.buf off n

/-- `BufAppend(c)`. -/
def bufAppend (c : Bytes) (s : State) : State := { s with buf := s.buf ++ c }

/-- `BufDrop(n)`. -/
def bufDrop (n : Nat) (s : State) : State := { s with buf := s.buf.drop n }

/-- `BufSlice(n)`. -/
def bufSlice (n : Nat) (s : State) : Bytes := byteSlice s.buf 0 n

/-- `BufClear`. -/
def bufClear (s : State) : State := { s with buf := [] }

/-! ## How a command ends -/

/-- The answer stands on the output port (log entry 2). -/
def State.setAnswer (a : Answer) (s : State) : State := { s with answer := some a }

/-- `return` with a result, or with none: status `OK` (R10). -/
def returns (r : Option Result) (s : State) : Host.Outcome State Fault Refusal :=
  .next (s.setAnswer ⟨.ok, r⟩)

/-- `raise E`: the command ends with that status and no result (R10, R242). -/
def raises (e : ErrorCode) (s : State) : Host.Outcome State Fault Refusal :=
  .next (s.setAnswer ⟨.error e, none⟩)

/-- A codec command ends as its computation does, and writes no state (R49, R242). -/
def answers {α : Type} (toResult : α → Result) (x : Except ErrorCode α) (s : State) :
    Host.Outcome State Fault Refusal :=
  match x with
  | .ok v => returns (some (toResult v)) s
  | .error e => raises e s

end Sys2Proof.Machine
end

