-- ==== Sys2Proof/Machine/Operands.lean ====
section
/-!
DEFINITION. Reading and writing the fields of a byte string: the four-byte strings (magic, checksum) and
the reads of a decoder that goes through a record field by field (spec/41_handshake.md rule R111's `need`
and `off`). A field has no alignment and starts where the one before it ends (spec/20_memory.md rules R46,
R47).
-/

namespace Sys2Proof.Machine

/-- Byte `i` of `b`; every use has checked `i < len(b)`, the value past the end is never read (log entry
10). -/
def byteAt (b : Bytes) (i : Nat) : Byte := b.getD i 0

/-- A four-byte string on the wire, first byte first (R44). -/
def quadBytes (q : Quad) : Bytes := [q.b0, q.b1, q.b2, q.b3]

/-- `b[off ..< off+4]` as a four-byte string; every use has checked the length. -/
def quadAt (b : Bytes) (off : Nat) : Quad :=
  ⟨byteAt b off, byteAt b (off + 1), byteAt b (off + 2), byteAt b (off + 3)⟩

/-- A u32 field at an offset whose bytes are there. -/
def u32At (b : Bytes) (off : Nat) : U32 := BitVec.ofNat 32 (rdBe b off 4)

/-- `need(k)`, then the `k` bytes and what follows them (R111). -/
def takeBytes (k : Nat) (rest : Bytes) : Except ErrorCode (Bytes × Bytes) :=
  if rest.length < k then .error .messageTooShort else .ok (rest.take k, rest.drop k)

/-- `need(n)`, then the big-endian value of the `n` bytes and what follows them (R101, R111). -/
def takeBe (n : Nat) (rest : Bytes) : Except ErrorCode (Nat × Bytes) :=
  match takeBytes n rest with
  | .ok (field, more) => .ok (beValue field, more)
  | .error e => .error e

end Sys2Proof.Machine
end

