-- ==== Sys2Proof/Machine/Address.lean ====
section
/-!
DEFINITION. The AddressCodec and the PeersCodec (spec/45_peers_address.md rules R170 to R173). Neither
checks the port range.
-/

namespace Sys2Proof.Machine

/-- R170: 4 address bytes and the port as a u32, or `UnsupportedAddress`. -/
def encodeAddress (a : Peer) : Except ErrorCode Bytes :=
  if a.ip.length ≠ Config.addr4Len then .error .unsupportedAddress
  else .ok (a.ip ++ be32Bits a.port)

/-- The Peer in the first 8 bytes of `b`; every use has checked that they are there (R171, R173). -/
def peerAt (b : Bytes) : Peer := ⟨byteSlice b 0 4, u32At b 4⟩

/-- R171: the first 8 bytes of `b`, or `MessageTooShort`. -/
def decodeAddress (b : Bytes) : Except ErrorCode Peer :=
  if b.length < 8 then .error .messageTooShort else .ok (peerAt b)

/-- The entries one after another, in list order; the first entry that fails decides (R172). -/
def encodeEntries : List Peer → Except ErrorCode Bytes
  | [] => .ok []
  | a :: ps =>
    match encodeAddress a with
    | .error e => .error e
    | .ok bs =>
      match encodeEntries ps with
      | .error e => .error e
      | .ok more => .ok (bs ++ more)

/-- R172: the count, checked first, then the entries. -/
def encodePeers (ps : List Peer) : Except ErrorCode Bytes :=
  if ps.length > 2 ^ 32 - 1 then .error .lengthOverflow
  else
    match encodeEntries ps with
    | .error e => .error e
    | .ok entries => .ok (beBytes 4 ps.length ++ entries)

/-- The first `n` entries of a byte string that has them (R173). -/
def entriesAt : Nat → Bytes → List Peer
  | 0, _ => []
  | n + 1, b => peerAt b :: entriesAt n (b.drop 8)

/-- R173: the count against the whole remaining length before any entry is read, in unbounded
arithmetic; bytes after the last entry are ignored. -/
def decodePeers (b : Bytes) : Except ErrorCode (List Peer) :=
  if b.length < 4 then .error .messageTooShort
  else
    let n := rdBe b 0 4
    if b.length < 4 + 8 * n then .error .messageTooShort
    else .ok (entriesAt n (b.drop 4))

/-- R170: `ADDR_ENC a`. -/
def execAddrEnc (a : Peer) (s : State) : Host.Outcome State Fault Refusal :=
  answers .bytes (encodeAddress a) s

/-- R171: `ADDR_DEC b`. -/
def execAddrDec (b : Bytes) (s : State) : Host.Outcome State Fault Refusal :=
  answers .peer (decodeAddress b) s

/-- R172: `PEERS_ENC ps`. -/
def execPeersEnc (ps : List Peer) (s : State) : Host.Outcome State Fault Refusal :=
  answers .bytes (encodePeers ps) s

/-- R173: `PEERS_DEC b`. -/
def execPeersDec (b : Bytes) (s : State) : Host.Outcome State Fault Refusal :=
  answers .peers (decodePeers b) s

end Sys2Proof.Machine
end

