-- ==== Sys2Proof/Machine/Checksum.lean ====
section
/-!
DEFINITION. The ChecksumEngine (spec/44_checksum.md rule R160).
-/

namespace Sys2Proof.Machine

/-- The digest bytes at offsets 0 to 3 of `H(b)`, in that order (R160). -/
def checksum (b : Bytes) : Quad :=
  let d := Config.hash b
  ⟨d[0], d[1], d[2], d[3]⟩

/-- R160: `CKSUM b` returns 4 bytes; the status is always `OK`. -/
def execCksum (b : Bytes) (s : State) : Host.Outcome State Fault Refusal :=
  let d := checksum b
  returns (some (.bytes [d.b0, d.b1, d.b2, d.b3])) s

end Sys2Proof.Machine
end

