-- ==== Sys2Proof/WellFormed.lean ====
section
/-!
DEFINITION. The record constraints of spec/10_state.md rules R30 to R33 and of the encode commands, as
decidable checks. Every value of `Instr` is an instruction the block runs (R62: an operand out of its
type's range cannot be written down); an instruction that is not well-formed here is one whose encode
command answers an error status, not one the model leaves out.
-/

namespace Sys2Proof

/-- R33: the `ip` of a Peer "must have 4 bytes". -/
def Peer.wellFormed (a : Peer) : Bool :=
  a.ip.length == Config.addr4Len

/-- A declared address that `HS_ENC` writes: 4 address bytes and a port of at most 65535 (R31, R113). -/
def DeclAddress.encodable (a : DeclAddress) : Bool :=
  a.ip.length == Config.addr4Len && decide (a.port.toNat ≤ Config.portMax)

/-- R113: a Handshake is encodable when both names have at most 255 bytes and its declared address, if
there is one, is encodable. -/
def Handshake.encodable (h : Handshake) : Bool :=
  decide (h.appName.length ≤ Config.nameMax) && decide (h.nodeName.length ≤ Config.nameMax) &&
    h.declAddress.all DeclAddress.encodable

/-- R32: a Header is well-formed when its checksum is present exactly when `payloadLength > 0`. -/
def Header.wellFormed (h : Header) : Bool :=
  h.checksum.isSome == decide (0 < h.payloadLength.toNat)

/-- The operands of an encode command meet its record's constraints (R30 to R33), its payload or count
fits its length field (R140, R172). A command that takes a byte string, an integer or nothing has no
constraint: any value of the type will do. -/
def Instr.wellFormed : Instr → Bool
  | .reset => true
  | .beEnc1 _ => true
  | .beEnc4 _ => true
  | .beEnc8 _ => true
  | .beDec1 _ => true
  | .beDec4 _ => true
  | .beDec8 _ => true
  | .cksum _ => true
  | .addrEnc a => a.wellFormed
  | .addrDec _ => true
  | .hsEnc h => h.encodable
  | .hsDec _ => true
  | .hdrEnc h => h.wellFormed
  | .hdrDec _ => true
  | .msgEnc _ payload => decide (payload.length ≤ 2 ^ 32 - 14)
  | .msgDec _ => true
  | .peersEnc ps => decide (ps.length < 2 ^ 32) && ps.all Peer.wellFormed
  | .peersDec _ => true
  | .rxChunk _ => true
  | .cidGetPeers _ => true
  | .cidPeers _ => true
  | .cidSignatures _ => true
  | .cidGetBlock _ => true
  | .cidBlock _ => true
  | .cidScore _ => true
  | .cidTransaction _ => true
  | .cidInvMicroblock _ => true
  | .cidMicroblockRequest _ => true
  | .cidMicroblock _ => true
  | .cidCheckpoint _ => true

end Sys2Proof
end

