-- ==== Sys2Proof/Machine/Header.lean ====
section
/-!
DEFINITION. The HeaderCodec (spec/42_header.md rules R130, R131; layout spec/30_encoding.md rule
R64). It checks neither the lengths nor the magic.
-/

namespace Sys2Proof.Machine

/-- The checksum field: its four bytes when present, nothing otherwise (R64). -/
def checksumBytes : Option Quad → Bytes
  | none => []
  | some q => quadBytes q

/-- R130: the fields as given; a checksum whose presence disagrees with `payloadLength > 0` raises
`InvalidRecord`. -/
def encodeHeader (h : Header) : Except ErrorCode Bytes :=
  if (0 < h.payloadLength.toNat) ≠ (h.checksum.isSome = true) then .error .invalidRecord
  else
    let fixed := be32Bits h.packetLength ++ quadBytes h.magic ++ be8Bits h.contentId
      ++ be32Bits h.payloadLength
    if 0 < h.payloadLength.toNat then .ok (fixed ++ checksumBytes h.checksum) else .ok fixed

/-- The 13 fixed bytes of a header, with the given checksum (R131, R141); every use has checked that the
bytes are there. -/
def headerAt (b : Bytes) (ck : Option Quad) : Header where
  packetLength := u32At b 0
  magic := quadAt b 4
  contentId := byteAt b 8
  payloadLength := u32At b 9
  checksum := ck

/-- R131: the header and its size, 13 or 17; the checksum is read only when `payloadLength > 0`. -/
def decodeHeader (b : Bytes) : Except ErrorCode (Header × Nat) :=
  if b.length < 13 then .error .messageTooShort
  else if rdBe b 9 4 > 0 then
    if b.length < 17 then .error .messageTooShort
    else .ok (headerAt b (some (quadAt b 13)), 17)
  else .ok (headerAt b none, 13)

/-- R130: `HDR_ENC h`. -/
def execHdrEnc (h : Header) (s : State) : Host.Outcome State Fault Refusal :=
  answers .bytes (encodeHeader h) s

/-- R131: `HDR_DEC b`. -/
def execHdrDec (b : Bytes) (s : State) : Host.Outcome State Fault Refusal :=
  answers (fun r => .header r.1 r.2) (decodeHeader b) s

end Sys2Proof.Machine
end

