-- ==== Sys2Proof/Machine/Message.lean ====
section
/-!
DEFINITION. The MessageCodec (spec/43_message.md rules R140 to R143; layout spec/30_encoding.md
rule R65).
-/

namespace Sys2Proof.Machine

/-- The header length a payload length asks for (R64, R68): 13 bytes without a checksum, 17 with one. -/
def headerSize (payloadLength : Nat) : Nat := if payloadLength = 0 then 13 else 17

/-- The header `MSG_ENC` builds (R140): lengths and checksum derived from the payload. -/
def messageHeader (cid : Byte) (payload : Bytes) : Header where
  packetLength := BitVec.ofNat 32 (headerSize payload.length + payload.length - 4)
  magic := Config.magic
  contentId := cid
  payloadLength := BitVec.ofNat 32 payload.length
  checksum := if payload.length = 0 then none else some (checksum payload)

/-- R140: one frame, header then payload, or `LengthOverflow` when `packetLength` would not fit. -/
def encodeMessage (cid : Byte) (payload : Bytes) : Except ErrorCode Bytes :=
  if headerSize payload.length + payload.length - 4 > 2 ^ 32 - 1 then .error .lengthOverflow
  else
    match encodeHeader (messageHeader cid payload) with
    | .error e => .error e
    | .ok header => .ok (header ++ payload)

/-- R142: the content-id-indexed payload decoder table. Only 0x02 has a decoder; a payload of any other
content-id, listed or not, is left opaque (R71). -/
def dispatch (cid : Byte) (rest : Bytes) : Except ErrorCode Payload :=
  if cid = 0x02 then
    match decodePeers rest with
    | .ok ps => .ok (.peers ps)
    | .error e => .error e
  else if rest.length = 0 then .ok .none
  else .ok (.opaqueBytes rest)

/-- R141: header only below 17 bytes, else the header and the dispatched rest. The received checksum is
returned and not verified (R143). -/
def decodeMessage (b : Bytes) : Except ErrorCode Message :=
  if b.length < 13 then .error .messageTooShort
  else if b.length < 17 then .ok ⟨headerAt b none, .none⟩
  else
    match decodeHeader b with
    | .error e => .error e
    | .ok (header, size) =>
      match dispatch header.contentId (b.drop size) with
      | .error e => .error e
      | .ok payload => .ok ⟨header, payload⟩

/-- R140: `MSG_ENC cid, payload`. -/
def execMsgEnc (cid : Byte) (payload : Bytes) (s : State) : Host.Outcome State Fault Refusal :=
  answers .bytes (encodeMessage cid payload) s

/-- R141: `MSG_DEC b`. -/
def execMsgDec (b : Bytes) (s : State) : Host.Outcome State Fault Refusal :=
  answers .message (decodeMessage b) s

end Sys2Proof.Machine
end

