-- ==== Sys2Proof/Machine/ContentId.lean ====
section
/-!
DEFINITION. The entries of the MessageCodec's payload decoder table (spec/30_encoding.md rules R70,
R71; spec/43_message.md rule R142), one per content-id row of the opcode table, each applied to the
bytes that follow the header (log entry 6). `MSG_DEC` reaches the same table by the header's content-id.
-/

namespace Sys2Proof.Machine

/-- What the entry of the table at a content-id gives for the bytes after the header. -/
def runEntry (cid : Byte) (rest : Bytes) (s : State) : Host.Outcome State Fault Refusal :=
  answers .payload (dispatch cid rest) s

/-- R70, `getPeers` 0x01: no decoder registered, so the rest is opaque if bytes are present. -/
def execCidGetPeers (rest : Bytes) (s : State) : Host.Outcome State Fault Refusal :=
  runEntry 0x01 rest s

/-- R70, `peers` 0x02: the rest is decoded as a Peers payload, whose error propagates. -/
def execCidPeers (rest : Bytes) (s : State) : Host.Outcome State Fault Refusal :=
  runEntry 0x02 rest s

/-- R70, `signatures` 0x15: opaque. -/
def execCidSignatures (rest : Bytes) (s : State) : Host.Outcome State Fault Refusal :=
  runEntry 0x15 rest s

/-- R70, `getBlock` 0x16: opaque. -/
def execCidGetBlock (rest : Bytes) (s : State) : Host.Outcome State Fault Refusal :=
  runEntry 0x16 rest s

/-- R70, `block` 0x17: opaque. -/
def execCidBlock (rest : Bytes) (s : State) : Host.Outcome State Fault Refusal :=
  runEntry 0x17 rest s

/-- R70, `score` 0x18: opaque. -/
def execCidScore (rest : Bytes) (s : State) : Host.Outcome State Fault Refusal :=
  runEntry 0x18 rest s

/-- R70, `transaction` 0x19: opaque. -/
def execCidTransaction (rest : Bytes) (s : State) : Host.Outcome State Fault Refusal :=
  runEntry 0x19 rest s

/-- R70, `invMicroblock` 0x1A: opaque. -/
def execCidInvMicroblock (rest : Bytes) (s : State) : Host.Outcome State Fault Refusal :=
  runEntry 0x1A rest s

/-- R70, `microblockRequest` 0x1B: opaque (decimal 27, C12). -/
def execCidMicroblockRequest (rest : Bytes) (s : State) : Host.Outcome State Fault Refusal :=
  runEntry 0x1B rest s

/-- R70, `microblock` 0x1C: opaque (decimal 28, C12). -/
def execCidMicroblock (rest : Bytes) (s : State) : Host.Outcome State Fault Refusal :=
  runEntry 0x1C rest s

/-- R70, `checkpoint` 0x64: opaque. -/
def execCidCheckpoint (rest : Bytes) (s : State) : Host.Outcome State Fault Refusal :=
  runEntry 0x64 rest s

/-- R71: a content-id that R70 does not list is no error, its payload is left opaque. -/
def execUnlistedContentId (cid : Byte) (rest : Bytes) (s : State) :
    Host.Outcome State Fault Refusal :=
  runEntry cid rest s

end Sys2Proof.Machine
end

