-- ==== Sys2Proof/Machine/Control.lean ====
section
/-!
DEFINITION. The control unit (spec/47_control.md rules R220, R221).
-/

namespace Sys2Proof.Machine

/-- The four items of the architectural state at their reset values (R220, R270). -/
def clearConnection (s : State) : State :=
  { bufClear s with rxMode := .handshake, target := 0, fault := false }

/-- R220: `RESET`, always `OK`, no result. -/
def execReset (s : State) : Host.Outcome State Fault Refusal :=
  returns none (clearConnection s)

/-- R221: an opcode that is no command ends with `IllegalCommand`, reads no operand and writes no
state. -/
def execIllegal (s : State) : Host.Outcome State Fault Refusal :=
  raises .illegalCommand s

end Sys2Proof.Machine
end

