-- ==== Sys2Proof/Machine/Handshake.lean ====
section
/-!
DEFINITION. The HandshakeCodec (spec/41_handshake.md rules R110 to R112; layout
spec/30_encoding.md rule R63).
-/

namespace Sys2Proof.Machine

/-- The declSize field and what it announces (R110): 0 for no declared address; 8, the 4 address bytes
and the port otherwise. An address that is not 4 bytes is refused before a port out of range. -/
def encodeDeclAddress : Option DeclAddress → Except ErrorCode Bytes
  | none => .ok (beBytes 4 0)
  | some a =>
    if a.ip.length ≠ Config.addr4Len then .error .unsupportedAddress
    else if a.port.toNat > Config.portMax then .error .invalidPort
    else .ok (beBytes 4 8 ++ a.ip ++ be32Bits a.port)

/-- A name with its one-byte length (R63); every use has checked that the length fits. -/
def encodeName (name : Bytes) : Bytes := beBytes 1 name.length ++ name

/-- R110: the checks in the order written, then the fields in wire order. -/
def encodeHandshake (h : Handshake) : Except ErrorCode Bytes :=
  if h.appName.length > Config.nameMax then .error .nameTooLong
  else if h.nodeName.length > Config.nameMax then .error .nameTooLong
  else
    match encodeDeclAddress h.declAddress with
    | .error e => .error e
    | .ok d =>
      .ok (encodeName h.appName
        ++ be32Bits h.version.major ++ be32Bits h.version.minor ++ be32Bits h.version.patch
        ++ encodeName h.nodeName
        ++ be64Bits h.nonce ++ d ++ be64Bits h.timestamp)

/-- R112: every 4-byte and every 16-byte string is a valid address (PRESUMED, log entry 9). -/
def addrOk (ip : Bytes) : Bool :=
  ip.length == Config.addr4Len || ip.length == Config.addr16Len

/-- The declared address after a declSize of `size` (R111): both address and port are read before either
is checked, the address before the port. -/
def decodeDeclAddress (size : Nat) (rest : Bytes) :
    Except ErrorCode (Option DeclAddress × Bytes) :=
  if ¬ (size = 0 ∨ size = 8 ∨ size = 20) then .error .invalidAddressLength
  else if size = 0 then .ok (none, rest)
  else do
    let (ip, rest) ← takeBytes (size - 4) rest
    let (port, rest) ← takeBe 4 rest
    if ¬ addrOk ip then .error .invalidAddress
    else if port > Config.portMax then .error .invalidPort
    else .ok (some ⟨ip, BitVec.ofNat 32 port⟩, rest)

/-- The handshake at the start of `b`, and the bytes after it (R111): the fields in wire order, each
checked as it is read. -/
def parseHandshake (b : Bytes) : Except ErrorCode (Handshake × Bytes) := do
  let (appLen, rest) ← takeBe 1 b
  let (app, rest) ← takeBytes appLen rest
  let (major, rest) ← takeBe 4 rest
  let (minor, rest) ← takeBe 4 rest
  let (patch, rest) ← takeBe 4 rest
  let (nodeLen, rest) ← takeBe 1 rest
  let (node, rest) ← takeBytes nodeLen rest
  let (nonce, rest) ← takeBe 8 rest
  let (declSize, rest) ← takeBe 4 rest
  let (decl, rest) ← decodeDeclAddress declSize rest
  let (timestamp, rest) ← takeBe 8 rest
  return ({ appName := app
            version := ⟨BitVec.ofNat 32 major, BitVec.ofNat 32 minor, BitVec.ofNat 32 patch⟩
            nodeName := node
            nonce := BitVec.ofNat 64 nonce
            declAddress := decl
            timestamp := BitVec.ofNat 64 timestamp }, rest)

/-- R111: the handshake and `consumed`, the number of bytes it occupies. -/
def decodeHandshake (b : Bytes) : Except ErrorCode (Handshake × Nat) :=
  match parseHandshake b with
  | .ok (h, rest) => .ok (h, b.length - rest.length)
  | .error e => .error e

/-- R110: `HS_ENC h`. -/
def execHsEnc (h : Handshake) (s : State) : Host.Outcome State Fault Refusal :=
  answers .bytes (encodeHandshake h) s

/-- R111: `HS_DEC b`. -/
def execHsDec (b : Bytes) (s : State) : Host.Outcome State Fault Refusal :=
  answers (fun r => .handshake r.1 r.2) (decodeHandshake b) s

end Sys2Proof.Machine
end

