-- ==== Sys2Proof/Machine/Integer.lean ====
section
/-!
DEFINITION. The big-endian integer codec (spec/40_integer_codec.md rules R102 to R107).
-/

namespace Sys2Proof.Machine

/-- R102: `BE_ENC1 v` returns `be_1(v)`. -/
def execBeEnc1 (v : Byte) (s : State) : Host.Outcome State Fault Refusal :=
  returns (some (.bytes (be8Bits v))) s

/-- R103: `BE_ENC4 v` returns `be_4(v)`. -/
def execBeEnc4 (v : U32) (s : State) : Host.Outcome State Fault Refusal :=
  returns (some (.bytes (be32Bits v))) s

/-- R104: `BE_ENC8 v` returns `be_8(v)`. -/
def execBeEnc8 (v : U64) (s : State) : Host.Outcome State Fault Refusal :=
  returns (some (.bytes (be64Bits v))) s

/-- The first `n` bytes of `b` as an integer, or `MessageTooShort`; bytes after them are ignored (R105 to
R107, D26). -/
def decodeBe (n : Nat) (b : Bytes) : Except ErrorCode Nat :=
  if b.length < n then .error .messageTooShort else .ok (rdBe b 0 n)

/-- R105: `BE_DEC1 b`. -/
def execBeDec1 (b : Bytes) (s : State) : Host.Outcome State Fault Refusal :=
  answers (fun v => .u8 (BitVec.ofNat 8 v)) (decodeBe 1 b) s

/-- R106: `BE_DEC4 b`. -/
def execBeDec4 (b : Bytes) (s : State) : Host.Outcome State Fault Refusal :=
  answers (fun v => .u32 (BitVec.ofNat 32 v)) (decodeBe 4 b) s

/-- R107: `BE_DEC8 b`. -/
def execBeDec8 (b : Bytes) (s : State) : Host.Outcome State Fault Refusal :=
  answers (fun v => .u64 (BitVec.ofNat 64 v)) (decodeBe 8 b) s

end Sys2Proof.Machine
end

