-- ==== Sys2Proof/Machine/Flags.lean ====
section
/-!
DEFINITION. The outputs a command has in place of flags: the status codes (spec/60_exceptions.md rule
R240) and the payload kinds (spec/10_state.md rules R28, R34). The FRWC has no condition codes or flags
beyond them (R28); they belong to the command that returns them and are stored nowhere in its state.
-/

namespace Sys2Proof.Machine

/-- The numeric code of an error (R240). -/
def ErrorCode.code : ErrorCode → Byte
  | .messageTooShort => 0x01
  | .invalidAddressLength => 0x02
  | .invalidAddress => 0x03
  | .invalidPort => 0x04
  | .nameTooLong => 0x05
  | .unsupportedAddress => 0x06
  | .lengthOverflow => 0x07
  | .frameTooLarge => 0x08
  | .illegalCommand => 0x09
  | .invalidRecord => 0x0A

/-- The numeric status code (R240): 0x00 for `OK`. -/
def Status.code : Status → Byte
  | .ok => 0x00
  | .error e => e.code

/-- The numeric payload kind (R34). -/
def PayloadKind.code : PayloadKind → Byte
  | .none => 0
  | .peers => 1
  | .opaqueBytes => 2

/-- The payload kind of a payload is its constructor (R34). -/
def Payload.kind : Payload → PayloadKind
  | .none => .none
  | .peers _ => .peers
  | .opaqueBytes _ => .opaqueBytes

/-- The payload kind a frame event returns, when its frame decoded (R28). -/
def Event.payloadKind : Event → Option PayloadKind
  | .frame _ _ (some m) => some m.payload.kind
  | .frame _ _ none => none
  | .handshake _ _ _ => none
  | .fault _ _ => none

/-- The payload kind `MSG_DEC` returns with its message, and an entry of the payload decoder table with
its payload (R28, R34). -/
def Answer.payloadKind (a : Answer) : Option PayloadKind :=
  match a.result with
  | some (.message m) => some m.payload.kind
  | some (.payload p) => some p.kind
  | _ => none

/-- The bit of `RX_MODE` (R21). -/
def RxMode.bit : RxMode → BitVec 1
  | .handshake => 0
  | .framed => 1

/-- The status of a computation (R240). -/
def statusOf {α : Type} : Except ErrorCode α → Status
  | .ok _ => .ok
  | .error e => .error e

/-- The value of a computation, when it ends with `OK` (R242). -/
def valueOf {α : Type} : Except ErrorCode α → Option α
  | .ok v => some v
  | .error _ => none

end Sys2Proof.Machine
end

