-- ==== Sys2Proof/Machine/Reassembler.lean ====
section
/-!
DEFINITION. The FrameReassembler (spec/46_reassembler.md rules R190 to R200), the one stateful unit.
-/

namespace Sys2Proof.Machine

/-- R26: `AwaitingFirstByte` is `TARGET = 0`, whatever `BUF` holds, and `Accumulating` is `TARGET` set. -/
def State.phase (s : State) : Phase :=
  if s.target = 0 then .awaitingFirstByte else .accumulating

/-- R68: the length of a frame, from its first 4 bytes alone. -/
def frameLength (b : Bytes) : Nat := rdBe b 0 4 + 4

/-- R195: a target length that exceeds a finite `MAX_FRAME`. -/
def exceedsMaxFrame (p : Config.Params) (target : Nat) : Bool :=
  p.maxFrame.any (fun m => decide (m < target))

/-- R193: with `TARGET` unset, read it from the 4 bytes of the length prefix; the 33-bit sum never
wraps. -/
def readPrefix (s : State) : State :=
  if s.target = 0 then { s with target := BitVec.ofNat 33 (bufRead s 0 4 + 4) } else s

/-- R194: take the first `TARGET` bytes off `BUF` and leave `TARGET` unset. -/
def sliceOff (s : State) : State :=
  { bufDrop s.target.toNat s with target := 0 }

/-- R194, R198: the event of one frame, with the status and the result of `MSG_DEC` on it. -/
def frameEvent (f : Bytes) : Event :=
  .frame f (statusOf (decodeMessage f)) (valueOf (decodeMessage f))

/-- R191: the loop, with the events in the order it emits them. Each pass that goes on takes at least one
byte off `BUF`, so `len(BUF) + 1` passes are enough (log entry 8). -/
def rxLoop : Nat → State → State × List Event
  | 0, s => (s, [])
  | fuel + 1, s =>
    if s.target = 0 ∧ s.buf.length < 4 then (s, [])
    else
      let t := readPrefix s
      if s.target = 0 ∧ exceedsMaxFrame t.params t.target.toNat then
        ({ t with fault := true }, [.fault (.error .frameTooLarge) t.target])
      else if t.buf.length < t.target.toNat then (t, [])
      else
        let r := rxLoop fuel (sliceOff t)
        (r.1, frameEvent (bufSlice t.target.toNat t) :: r.2)

/-- R192: the event of the handshake chunk. -/
def handshakeEvent (c : Bytes) : Event :=
  match decodeHandshake c with
  | .ok (h, consumed) => .handshake .ok (some h) consumed
  | .error e => .handshake (.error e) none 0

/-- R192: the whole chunk is consumed, and the mode becomes `FRAMED` whatever the status. -/
def handshakeStep (c : Bytes) (s : State) : State × List Event :=
  ({ s with rxMode := .framed }, [handshakeEvent c])

/-- R191 in `FRAMED` mode: append the chunk, then drain the frames. -/
def framedStep (c : Bytes) (s : State) : State × List Event :=
  let t := bufAppend c s
  rxLoop (t.buf.length + 1) t

/-- R191: `RX_CHUNK c`. A faulted block refuses (R196), an empty chunk does nothing (R197). -/
def execRxChunk (c : Bytes) (s : State) : Host.Outcome State Fault Refusal :=
  if s.fault then raises .frameTooLarge s
  else if c.length = 0 then returns (some (.events [])) s
  else
    match s.rxMode with
    | .handshake => returns (some (.events (handshakeStep c s).2)) (handshakeStep c s).1
    | .framed => returns (some (.events (framedStep c s).2)) (framedStep c s).1

end Sys2Proof.Machine
end

