-- ==== Sys2Proof/Machine/Dispatch.lean ====
section
/-!
DEFINITION. The meaning of every instruction: one arm per row of spec/opcode_table.json.
-/

namespace Sys2Proof.Machine

/-- What an instruction does to a state. -/
def exec (i : Instr) (s : State) : Host.Outcome State Fault Refusal :=
  match i with
  | .reset => Sys2Proof.Machine.execReset s
  | .beEnc1 x => Sys2Proof.Machine.execBeEnc1 x s
  | .beEnc4 x => Sys2Proof.Machine.execBeEnc4 x s
  | .beEnc8 x => Sys2Proof.Machine.execBeEnc8 x s
  | .beDec1 x => Sys2Proof.Machine.execBeDec1 x s
  | .beDec4 x => Sys2Proof.Machine.execBeDec4 x s
  | .beDec8 x => Sys2Proof.Machine.execBeDec8 x s
  | .cksum x => Sys2Proof.Machine.execCksum x s
  | .addrEnc x => Sys2Proof.Machine.execAddrEnc x s
  | .addrDec x => Sys2Proof.Machine.execAddrDec x s
  | .hsEnc x => Sys2Proof.Machine.execHsEnc x s
  | .hsDec x => Sys2Proof.Machine.execHsDec x s
  | .hdrEnc x => Sys2Proof.Machine.execHdrEnc x s
  | .hdrDec x => Sys2Proof.Machine.execHdrDec x s
  | .msgEnc cid payload => Sys2Proof.Machine.execMsgEnc cid payload s
  | .msgDec x => Sys2Proof.Machine.execMsgDec x s
  | .peersEnc x => Sys2Proof.Machine.execPeersEnc x s
  | .peersDec x => Sys2Proof.Machine.execPeersDec x s
  | .rxChunk x => Sys2Proof.Machine.execRxChunk x s
  | .cidGetPeers x => Sys2Proof.Machine.execCidGetPeers x s
  | .cidPeers x => Sys2Proof.Machine.execCidPeers x s
  | .cidSignatures x => Sys2Proof.Machine.execCidSignatures x s
  | .cidGetBlock x => Sys2Proof.Machine.execCidGetBlock x s
  | .cidBlock x => Sys2Proof.Machine.execCidBlock x s
  | .cidScore x => Sys2Proof.Machine.execCidScore x s
  | .cidTransaction x => Sys2Proof.Machine.execCidTransaction x s
  | .cidInvMicroblock x => Sys2Proof.Machine.execCidInvMicroblock x s
  | .cidMicroblockRequest x => Sys2Proof.Machine.execCidMicroblockRequest x s
  | .cidMicroblock x => Sys2Proof.Machine.execCidMicroblock x s
  | .cidCheckpoint x => Sys2Proof.Machine.execCidCheckpoint x s

end Sys2Proof.Machine
end

