-- ==== Sys2Proof/Machine/Step.lean ====
section
/-!
DEFINITION. One step: the block takes the host's next request, decodes it and answers it
(spec/30_encoding.md rule R60; spec/20_memory.md rules R48, R52). Log entry 1 says how requests come
to be pending.
-/

namespace Sys2Proof.Machine

/-- What a request that stands for no instruction does: an opcode that is no command is illegal (R221), a
content-id that is not listed leaves its payload opaque (R71). -/
def execRejected (r : Request) (s : State) : Host.Outcome State Fault Refusal :=
  match r.port with
  | .command => execIllegal s
  | .contentId => execUnlistedContentId r.op r.args.bytes s

/-- One step. With no request pending the block does nothing and its state persists (R252); otherwise it
takes the oldest request and answers it, in one atomic step (R48). -/
def step (s : State) : Host.Outcome State Fault Refusal :=
  match s.pending with
  | [] => .next s
  | r :: rest =>
    match decode r with
    | .ok i => exec i { s with pending := rest }
    | .error _ => execRejected r { s with pending := rest }

/-- `s` with the request of a word of the opcode table, every operand zero, as the host's next one. It
stands for the host issuing that command (log entry 1). -/
def State.withFetchWord (s : State) (_nbits w : Nat) : State :=
  { s with pending := tableRequest w :: s.pending.drop 1 }

end Sys2Proof.Machine
end

