-- ==== Sys2Proof/Machine/Blake2b.lean ====
section
/-!
DEFINITION. What the named property "H is BLAKE2b-256" says (spec/44_checksum.md rule R161;
spec/92_eei_decisions.md D6): BLAKE2b as RFC 7693 defines it, with a digest of 32 bytes, no key, no salt
and no personalization. The machine never runs this function, it uses the opaque `Config.hash`; claims
about checksum values assume that the two agree. The constants and the mixing schedule are RFC 7693's and
stand in no file of spec/ (PRESUMED, log entry 4). Words are natural numbers below 2^64 on every input of
fewer than 2^128 bytes; what the text gives on longer ones is the model's (DESIGN CHOICE, log entry 17).
-/

namespace Sys2Proof.Machine

/-- `k n`, by cases on `n`, so that evaluation computes `n` before it goes on. -/
def withNat {α : Type} (n : Nat) (k : Nat → α) : α :=
  match n with
  | 0 => k 0
  | m + 1 => k (m + 1)

/-- The initial chaining words of BLAKE2b (RFC 7693). -/
def blakeIv : List Nat :=
  [0x6a09e667f3bcc908, 0xbb67ae8584caa73b, 0x3c6ef372fe94f82b, 0xa54ff53a5f1d36f1,
   0x510e527fade682d1, 0x9b05688c2b3e6c1f, 0x1f83d9abfb41bd6b, 0x5be0cd19137e2179]

/-- The message word schedule, one row for each of the 12 rounds (RFC 7693). -/
def blakeSchedule : List (List Nat) :=
  [[0, 1, 2, 3, 4, 5, 6, 7, 8, 9, 10, 11, 12, 13, 14, 15],
   [14, 10, 4, 8, 9, 15, 13, 6, 1, 12, 0, 2, 11, 7, 5, 3],
   [11, 8, 12, 0, 5, 2, 15, 13, 10, 14, 3, 6, 7, 1, 9, 4],
   [7, 9, 3, 1, 13, 12, 11, 14, 2, 6, 5, 10, 4, 0, 15, 8],
   [9, 0, 5, 7, 2, 4, 10, 15, 14, 1, 11, 12, 6, 8, 3, 13],
   [2, 12, 6, 10, 0, 11, 8, 3, 4, 13, 7, 5, 15, 14, 1, 9],
   [12, 5, 1, 15, 14, 13, 4, 10, 0, 7, 6, 3, 9, 2, 8, 11],
   [13, 11, 7, 14, 12, 1, 3, 9, 5, 0, 15, 4, 8, 6, 2, 10],
   [6, 15, 14, 9, 11, 3, 0, 8, 12, 2, 13, 7, 1, 4, 10, 5],
   [10, 2, 8, 4, 7, 6, 1, 5, 15, 11, 9, 14, 3, 12, 13, 0],
   [0, 1, 2, 3, 4, 5, 6, 7, 8, 9, 10, 11, 12, 13, 14, 15],
   [14, 10, 4, 8, 9, 15, 13, 6, 1, 12, 0, 2, 11, 7, 5, 3]]

/-- Addition of 64-bit words. -/
def wordAdd (x y : Nat) : Nat := (x + y) % 2 ^ 64

/-- Rotation of a 64-bit word to the right by `r`, `0 < r < 64`. -/
def wordRotr (x r : Nat) : Nat := (x >>> r) ||| ((x <<< (64 - r)) % 2 ^ 64)

/-- The mixing function G of RFC 7693 on four work words and two message words. -/
def blakeMix {α : Type} (a b c d x y : Nat) (k : Nat → Nat → Nat → Nat → α) : α :=
  withNat (wordAdd (wordAdd a b) x) fun a =>
  withNat (wordRotr (d ^^^ a) 32) fun d =>
  withNat (wordAdd c d) fun c =>
  withNat (wordRotr (b ^^^ c) 24) fun b =>
  withNat (wordAdd (wordAdd a b) y) fun a =>
  withNat (wordRotr (d ^^^ a) 16) fun d =>
  withNat (wordAdd c d) fun c =>
  withNat (wordRotr (b ^^^ c) 63) fun b =>
  k a b c d

/-- One round on the 16 work words: four columns, then four diagonals. -/
def blakeRound (m : List Nat) (row : List Nat) : List Nat → List Nat
  | [v0, v1, v2, v3, v4, v5, v6, v7, v8, v9, v10, v11, v12, v13, v14, v15] =>
    let w := fun i => m.getD (row.getD i 0) 0
    blakeMix v0 v4 v8 v12 (w 0) (w 1) fun v0 v4 v8 v12 =>
    blakeMix v1 v5 v9 v13 (w 2) (w 3) fun v1 v5 v9 v13 =>
    blakeMix v2 v6 v10 v14 (w 4) (w 5) fun v2 v6 v10 v14 =>
    blakeMix v3 v7 v11 v15 (w 6) (w 7) fun v3 v7 v11 v15 =>
    blakeMix v0 v5 v10 v15 (w 8) (w 9) fun v0 v5 v10 v15 =>
    blakeMix v1 v6 v11 v12 (w 10) (w 11) fun v1 v6 v11 v12 =>
    blakeMix v2 v7 v8 v13 (w 12) (w 13) fun v2 v7 v8 v13 =>
    blakeMix v3 v4 v9 v14 (w 14) (w 15) fun v3 v4 v9 v14 =>
    [v0, v1, v2, v3, v4, v5, v6, v7, v8, v9, v10, v11, v12, v13, v14, v15]
  | v => v

/-- A little-endian word. -/
def littleValue : Bytes → Nat
  | [] => 0
  | x :: rest => x.toNat + 256 * littleValue rest

/-- The first `n` little-endian 64-bit words of a byte string, bytes past its end read as 0. -/
def messageWords : Nat → Bytes → List Nat
  | 0, _ => []
  | n + 1, b => withNat (littleValue (b.take 8)) fun w => w :: messageWords n (b.drop 8)

/-- The eight bytes of a word, least significant first. -/
def littleBytes (w : Nat) : Bytes :=
  (List.range 8).map fun i => BitVec.ofNat 8 (w >>> (8 * i))

/-- The compression function F of RFC 7693: chaining words, one block, the byte counter, and whether the
block is the last. The counter's two words are its low 64 bits and the rest, which is a 64-bit word while the
counter is below 2^128. RFC 7693 defines no digest for a longer input; the rest is taken whole there
(DESIGN CHOICE, log entry 17). -/
def blakeCompress (h : List Nat) (block : Bytes) (counter : Nat) (last : Bool) : List Nat :=
  let flip := [0, 0, 0, 0, counter % 2 ^ 64, counter / 2 ^ 64, if last then 2 ^ 64 - 1 else 0, 0]
  let start := h ++ List.zipWith (· ^^^ ·) blakeIv flip
  let v := blakeSchedule.foldl (fun v row => blakeRound (messageWords 16 block) row v) start
  List.zipWith (· ^^^ ·) h (List.zipWith (· ^^^ ·) (v.take 8) (v.drop 8))

/-- The chaining words after every block: the last block holds 1 to 128 bytes (0 for an empty input) and
is padded with zeros. -/
def blakeBlocks : Nat → List Nat → Bytes → Nat → List Nat
  | 0, h, _, _ => h
  | fuel + 1, h, b, counter =>
    if b.length ≤ 128 then blakeCompress h b (counter + b.length) true
    else blakeBlocks fuel (blakeCompress h (b.take 128) (counter + 128) false) (b.drop 128)
      (counter + 128)

/-- BLAKE2b with a digest of `size` bytes, `1 ≤ size ≤ 64`, unkeyed: the parameter word holds the digest
length, key length 0, fanout 1 and depth 1 (D6), and the digest is the first `size` bytes of the final
chaining words. The digest length is a parameter of the hash: a shorter digest is not a cut longer one
(R161). -/
def blake2b (size : Nat) (b : Bytes) : Bytes :=
  let h := List.zipWith (· ^^^ ·) blakeIv [0x01010000 + size, 0, 0, 0, 0, 0, 0, 0]
  ((blakeBlocks (b.length + 1) h b 0).flatMap littleBytes).take size

/-- BLAKE2b-256: BLAKE2b computed with a digest of 32 bytes (R161). -/
def blake2b256 (b : Bytes) : Bytes := blake2b 32 b

/-- The named property "H is BLAKE2b-256" (R161, D6), which a claim about checksum values assumes. On
inputs of 2^128 bytes or more, where RFC 7693 defines no digest, it fixes `H` by the model's text (DESIGN
CHOICE, log entry 17). -/
def HashIsBlake2b256 : Prop := ∀ b : Bytes, (Config.hash b).toList = blake2b256 b

end Sys2Proof.Machine
end

