-- ==== Sys2Proof/Machine/Pseudo.lean ====
section
/-!
DEFINITION. The pseudo-commands (spec/30_encoding.md rule R76): each expands to commands in sequence, and
the expansion stops at the first status other than `OK` and returns it (log entry 16). They are written
forms of the host's programs; the block itself sees only the commands.
-/

namespace Sys2Proof.Machine

/-- The pseudo-commands of R76. -/
inductive Pseudo where
  | msgEncPeers (ps : List Peer)
  | msgEncEmpty (cid : Byte)
  | getPeers
  | rxStream (cs : List Bytes)
deriving DecidableEq, Repr

/-- Go on with the result of a command that ended with `OK`; stop with the answer of one that did not
(R76). -/
def onOk (o : Host.Outcome State Fault Refusal)
    (next : Option Result → State → Host.Outcome State Fault Refusal) :
    Host.Outcome State Fault Refusal :=
  match o with
  | .next s =>
    match s.answer with
    | some ⟨.ok, r⟩ => next r s
    | _ => .next s
  | .fault f => .fault f
  | .refused r => .refused r

/-- `RX_STREAM`: the chunks in order, their event lists concatenated after `before`. -/
def runStream : List Event → List Bytes → State → Host.Outcome State Fault Refusal
  | before, [], s => returns (some (.events before)) s
  | before, c :: cs, s =>
    onOk (exec (.rxChunk c) s) fun r t =>
      match r with
      | some (.events es) => runStream (before ++ es) cs t
      | _ => .next t

/-- The expansion of a pseudo-command, run on a state (R76). -/
def runPseudo (p : Pseudo) (s : State) : Host.Outcome State Fault Refusal :=
  match p with
  | .msgEncPeers ps =>
    onOk (exec (.peersEnc ps) s) fun r t =>
      match r with
      | some (.bytes payload) => exec (.msgEnc 0x02 payload) t
      | _ => .next t
  | .msgEncEmpty cid => exec (.msgEnc cid []) s
  | .getPeers => exec (.msgEnc 0x01 []) s
  | .rxStream cs => runStream [] cs s

end Sys2Proof.Machine
end

