-- ==== Sys2Proof/Safety.lean ====
section
/-!
DEFINITION. What a good state and a good run are, in the terms claims use: the invariants of
spec/10_state.md rules R22 to R25, the events of an answer, and the host's boot sequence
(spec/70_reset_and_hazards.md rule R272).
-/

namespace Sys2Proof.Machine

/-- R25: what holds between commands while `FAULT = 0`. -/
abbrev State.Inv (s : State) : Prop :=
  s.fault = false →
    (s.rxMode = .handshake → s.buf = [] ∧ s.target = 0) ∧
    (s.target = 0 → s.buf.length < 4) ∧
    (s.target ≠ 0 → 4 ≤ s.buf.length ∧ s.buf.length < s.target.toNat ∧
      s.target.toNat = frameLength s.buf ∧ exceedsMaxFrame s.params s.target.toNat = false)

/-- R24, R195: what holds while `FAULT = 1`: the target that was refused is in `TARGET`, its prefix at
the head of `BUF`, and it exceeds a finite `MAX_FRAME`. -/
abbrev State.FaultInv (s : State) : Prop :=
  s.fault = true →
    s.rxMode = .framed ∧ 4 ≤ s.buf.length ∧ s.target.toNat = frameLength s.buf ∧
      exceedsMaxFrame s.params s.target.toNat = true

/-- R23: `TARGET` is 0, or in the range 4..2^32+3. -/
abbrev State.TargetInRange (s : State) : Prop :=
  s.target = 0 ∨ (4 ≤ s.target.toNat ∧ s.target.toNat ≤ 2 ^ 32 + 3)

/-- The frames of an event list, in order. -/
def framesOf : List Event → List Bytes
  | [] => []
  | .frame f _ _ :: es => f :: framesOf es
  | .handshake _ _ _ :: es => framesOf es
  | .fault _ _ :: es => framesOf es

/-- Whether an event list reports the `FrameTooLarge` fault (R195). -/
def reportsFault (es : List Event) : Bool :=
  es.any fun e => match e with
    | .fault _ _ => true
    | .frame _ _ _ => false
    | .handshake _ _ _ => false

/-- One complete frame that the block accepts: its length is what its prefix says (R68) and no more than
`MAX_FRAME` (R53). -/
abbrev CompleteFrame (p : Config.Params) (f : Bytes) : Prop :=
  4 ≤ f.length ∧ f.length = frameLength f ∧ exceedsMaxFrame p f.length = false

/-- Bytes that hold no complete frame and no oversize prefix: the reassembler waits (R193, R194). -/
abbrev IncompleteFrame (p : Config.Params) (b : Bytes) : Prop :=
  b.length < 4 ∨ (b.length < frameLength b ∧ exceedsMaxFrame p (frameLength b) = false)

/-- Bytes whose length prefix exceeds `MAX_FRAME` (R195). -/
abbrev OversizePrefix (p : Config.Params) (b : Bytes) : Prop :=
  4 ≤ b.length ∧ exceedsMaxFrame p (frameLength b) = true

/-- The host's commands for one connection, in the order of R272: `RESET`, its own greeting, then every
inbound chunk in arrival order. -/
def bootSequence (greeting : Handshake) (chunks : List Bytes) : List Request :=
  encode .reset :: encode (.hsEnc greeting) :: chunks.map fun c => encode (.rxChunk c)

end Sys2Proof.Machine
end

