-- ==== Sys2Proof/Certificates/Slice0/Obligations.lean ====
section
/-!
DEFINITION. The statements for the provers. Each says in its docstring which rule of spec/ it
formalises. A meaning's whole next state is written out: `{ s with answer := some ... }` says that
`RX_MODE`, `BUF`, `TARGET`, `FAULT`, the parameters and the pending requests are as before, which is the
frame.
-/

open Sys2Proof Sys2Proof.Machine

/-! ## Integer codec -/

/-- R102, R103, R104: the encode commands return `be_n(v)`, most significant byte first, always `OK`, and
write no state. -/
def Obligations.BeEncodeAnswersBigEndianBytes : Prop :=
  ∀ (v1 : Byte) (v4 : U32) (v8 : U64) (s : State),
    exec (.beEnc1 v1) s = .next { s with answer := some ⟨.ok, some (.bytes [v1])⟩ } ∧
    exec (.beEnc4 v4) s = .next { s with answer := some ⟨.ok, some (.bytes
      [v4.extractLsb' 24 8, v4.extractLsb' 16 8, v4.extractLsb' 8 8, v4.extractLsb' 0 8])⟩ } ∧
    exec (.beEnc8 v8) s = .next { s with answer := some ⟨.ok, some (.bytes
      [v8.extractLsb' 56 8, v8.extractLsb' 48 8, v8.extractLsb' 40 8, v8.extractLsb' 32 8,
       v8.extractLsb' 24 8, v8.extractLsb' 16 8, v8.extractLsb' 8 8, v8.extractLsb' 0 8])⟩ }

/-- R105, R106, R107: the decode commands read the first 1, 4 or 8 bytes, big-endian, ignore the bytes
after them, and raise `MessageTooShort` on fewer; no state is written. -/
def Obligations.BeDecodeReadsLeadingBytes : Prop :=
  ∀ s : State,
    (∀ b : Bytes, b.length < 1 →
      exec (.beDec1 b) s = .next { s with answer := some ⟨.error .messageTooShort, none⟩ }) ∧
    (∀ (x0 : Byte) (t : Bytes),
      exec (.beDec1 (x0 :: t)) s = .next { s with answer := some ⟨.ok, some (.u8 x0)⟩ }) ∧
    (∀ b : Bytes, b.length < 4 →
      exec (.beDec4 b) s = .next { s with answer := some ⟨.error .messageTooShort, none⟩ }) ∧
    (∀ (x0 x1 x2 x3 : Byte) (t : Bytes),
      exec (.beDec4 (x0 :: x1 :: x2 :: x3 :: t)) s =
        .next { s with answer := some ⟨.ok, some (.u32 (x0 ++ x1 ++ x2 ++ x3))⟩ }) ∧
    (∀ b : Bytes, b.length < 8 →
      exec (.beDec8 b) s = .next { s with answer := some ⟨.error .messageTooShort, none⟩ }) ∧
    (∀ (x0 x1 x2 x3 x4 x5 x6 x7 : Byte) (t : Bytes),
      exec (.beDec8 (x0 :: x1 :: x2 :: x3 :: x4 :: x5 :: x6 :: x7 :: t)) s =
        .next { s with answer := some ⟨.ok,
          some (.u64 (x0 ++ x1 ++ x2 ++ x3 ++ x4 ++ x5 ++ x6 ++ x7))⟩ })

/-- R108: `rd_be` undoes `be_n` and `be_n` undoes `rd_be`, at the widths 1, 4 and 8, and so
`BE_DEC<n> (BE_ENC<n> v) = v`. -/
def Obligations.BigEndianRoundTrip : Prop :=
  (∀ n ∈ [1, 4, 8], ∀ v : Nat, v < 2 ^ (8 * n) →
    rdBe (beBytes n v) 0 n = v ∧ (beBytes n v).length = n) ∧
  (∀ n ∈ [1, 4, 8], ∀ b : Bytes, b.length = n → beBytes n (rdBe b 0 n) = b) ∧
  (∀ (v : Byte) (s : State), ∃ w,
    exec (.beEnc1 v) s = .next { s with answer := some ⟨.ok, some (.bytes w)⟩ } ∧
    exec (.beDec1 w) s = .next { s with answer := some ⟨.ok, some (.u8 v)⟩ }) ∧
  (∀ (v : U32) (s : State), ∃ w,
    exec (.beEnc4 v) s = .next { s with answer := some ⟨.ok, some (.bytes w)⟩ } ∧
    exec (.beDec4 w) s = .next { s with answer := some ⟨.ok, some (.u32 v)⟩ }) ∧
  (∀ (v : U64) (s : State), ∃ w,
    exec (.beEnc8 v) s = .next { s with answer := some ⟨.ok, some (.bytes w)⟩ } ∧
    exec (.beDec8 w) s = .next { s with answer := some ⟨.ok, some (.u64 v)⟩ })

/-! ## Checksum -/

/-- R160's first four digest bytes: `CKSUM b` answers `OK` with `H(b)[0 ..< 4]`, whatever the hash is,
and writes no state. -/
def Obligations.CksumAnswersFirstFourDigestBytes : Prop :=
  ∀ (b : Bytes) (s : State),
    exec (.cksum b) s =
      .next { s with answer := some ⟨.ok, some (.bytes ((Config.hash b).toList.take 4))⟩ }

/-- R162: the reference values, the first 4 bytes of BLAKE2b-256 of five inputs, and for comparison the
start of BLAKE2b-512 of the empty string. They are about the model's text of BLAKE2b (log entry 4), which
the named property of `H` refers to. -/
def Obligations.Blake2bReferenceValues : Prop :=
  (blake2b256 []).take 4 = [0x0e, 0x57, 0x51, 0xc0] ∧
  (blake2b256 [0x00, 0x00, 0x00, 0x00]).take 4 = [0x11, 0xda, 0x6d, 0x1f] ∧
  (blake2b256 [0x00, 0x00, 0x00, 0x01]).take 4 = [0x27, 0x0c, 0x07, 0x94] ∧
  (blake2b256 [0x01, 0x02]).take 4 = [0x65, 0xda, 0x39, 0x86] ∧
  (blake2b256 [0x00, 0x00, 0x00, 0x02, 0x7f, 0x00, 0x00, 0x01, 0x00, 0x00, 0x1a, 0xcf,
    0x0a, 0x00, 0x00, 0x02, 0x00, 0x00, 0x1a, 0xd4]).take 4 = [0x4f, 0xb5, 0xe7, 0xe2] ∧
  (blake2b 64 []).take 4 = [0x78, 0x6a, 0x02, 0xf7]

/-- The named property "H is BLAKE2b-256" can be met: the model's BLAKE2b-256 gives 32 bytes for every
input, as R7 and R161 ask of `H`, so some total function to 32 bytes agrees with it everywhere. The text of
BLAKE2b is the model's (log entry 4), on inputs of 2^128 bytes or more by its own choice (log entry 17). -/
def Obligations.Blake2bDigestHasThirtyTwoBytes : Prop :=
  (∀ b : Bytes, (blake2b256 b).length = 32) ∧
  ∃ h : Bytes → Vector Byte 32, ∀ b : Bytes, (h b).toList = blake2b256 b

/-! ## Address and Peers -/

/-- R170: `ADDR_ENC` writes 4 address bytes and the port as a u32, whatever the port, and refuses any
other address length. -/
def Obligations.AddrEncWritesAddressAndPort : Prop :=
  ∀ (a : Peer) (s : State),
    (a.ip.length = 4 → exec (.addrEnc a) s = .next { s with answer := some ⟨.ok, some (.bytes
      (a.ip ++ [a.port.extractLsb' 24 8, a.port.extractLsb' 16 8, a.port.extractLsb' 8 8,
        a.port.extractLsb' 0 8]))⟩ }) ∧
    (a.ip.length ≠ 4 →
      exec (.addrEnc a) s = .next { s with answer := some ⟨.error .unsupportedAddress, none⟩ })

/-- R171: `ADDR_DEC` reads 8 bytes, checks no port and ignores the bytes after them. -/
def Obligations.AddrDecReadsEightBytes : Prop :=
  ∀ s : State,
    (∀ b : Bytes, b.length < 8 →
      exec (.addrDec b) s = .next { s with answer := some ⟨.error .messageTooShort, none⟩ }) ∧
    (∀ (x0 x1 x2 x3 p0 p1 p2 p3 : Byte) (t : Bytes),
      exec (.addrDec (x0 :: x1 :: x2 :: x3 :: p0 :: p1 :: p2 :: p3 :: t)) s =
        .next { s with answer := some ⟨.ok,
          some (.peer ⟨[x0, x1, x2, x3], p0 ++ p1 ++ p2 ++ p3⟩)⟩ })

/-- R172: the count check first, then the entries' address lengths, then the count and every entry in
list order; no state is written. -/
def Obligations.PeersEncWritesCountAndEntries : Prop :=
  ∀ (ps : List Peer) (s : State),
    (2 ^ 32 - 1 < ps.length →
      exec (.peersEnc ps) s = .next { s with answer := some ⟨.error .lengthOverflow, none⟩ }) ∧
    (ps.length ≤ 2 ^ 32 - 1 → (∃ a ∈ ps, a.ip.length ≠ 4) →
      exec (.peersEnc ps) s = .next { s with answer := some ⟨.error .unsupportedAddress, none⟩ }) ∧
    (ps.length ≤ 2 ^ 32 - 1 → (∀ a ∈ ps, a.ip.length = 4) →
      exec (.peersEnc ps) s = .next { s with answer := some ⟨.ok, some (.bytes
        (be32Bits (BitVec.ofNat 32 ps.length) ++
          ps.flatMap fun a => a.ip ++ be32Bits a.port))⟩ })

/-- R173: the count is checked against the whole length, in unbounded arithmetic, before any entry is
read; entry `i` stands at offset `4 + 8i`; ports are not checked and trailing bytes are ignored. -/
def Obligations.PeersDecReadsCountedEntries : Prop :=
  ∀ (b : Bytes) (s : State),
    (b.length < 4 →
      exec (.peersDec b) s = .next { s with answer := some ⟨.error .messageTooShort, none⟩ }) ∧
    (4 ≤ b.length → b.length < 4 + 8 * rdBe b 0 4 →
      exec (.peersDec b) s = .next { s with answer := some ⟨.error .messageTooShort, none⟩ }) ∧
    (4 ≤ b.length → 4 + 8 * rdBe b 0 4 ≤ b.length → ∃ ps : List Peer,
      exec (.peersDec b) s = .next { s with answer := some ⟨.ok, some (.peers ps)⟩ } ∧
      ps.length = rdBe b 0 4 ∧
      ∀ i < rdBe b 0 4, ps[i]? = some
        ⟨byteSlice b (4 + 8 * i) (8 + 8 * i), BitVec.ofNat 32 (rdBe b (8 + 8 * i) 4)⟩)

/-- R174: the Address and Peers round trips, with any bytes after the encoding. -/
def Obligations.PeersRoundTrip : Prop :=
  (∀ (a : Peer) (t : Bytes) (s : State), a.ip.length = 4 → ∃ w,
    exec (.addrEnc a) s = .next { s with answer := some ⟨.ok, some (.bytes w)⟩ } ∧
    exec (.addrDec (w ++ t)) s = .next { s with answer := some ⟨.ok, some (.peer a)⟩ }) ∧
  (∀ (ps : List Peer) (t : Bytes) (s : State),
    (∀ a ∈ ps, a.ip.length = 4) → ps.length < 2 ^ 32 → ∃ w,
    exec (.peersEnc ps) s = .next { s with answer := some ⟨.ok, some (.bytes w)⟩ } ∧
    exec (.peersDec (w ++ t)) s = .next { s with answer := some ⟨.ok, some (.peers ps)⟩ })

/-! ## Handshake -/

/-- R110: the checks in the order written, then the record in wire order, `34 + A + N + D` bytes long; no
state is written. -/
def Obligations.HsEncChecksThenWritesRecord : Prop :=
  ∀ (h : Handshake) (s : State),
    (255 < h.appName.length ∨ 255 < h.nodeName.length →
      exec (.hsEnc h) s = .next { s with answer := some ⟨.error .nameTooLong, none⟩ }) ∧
    (h.appName.length ≤ 255 → h.nodeName.length ≤ 255 →
      (∀ a, h.declAddress = some a → a.ip.length ≠ 4 →
        exec (.hsEnc h) s = .next { s with answer := some ⟨.error .unsupportedAddress, none⟩ }) ∧
      (∀ a, h.declAddress = some a → a.ip.length = 4 → 65535 < a.port.toNat →
        exec (.hsEnc h) s = .next { s with answer := some ⟨.error .invalidPort, none⟩ }) ∧
      (∀ d : Bytes,
        (h.declAddress = none ∧ d = [0, 0, 0, 0]) ∨
        (∃ a, h.declAddress = some a ∧ a.ip.length = 4 ∧ a.port.toNat ≤ 65535 ∧
          d = [0, 0, 0, 8] ++ a.ip ++ be32Bits a.port) →
        ∃ w : Bytes,
          w = [BitVec.ofNat 8 h.appName.length] ++ h.appName
            ++ be32Bits h.version.major ++ be32Bits h.version.minor ++ be32Bits h.version.patch
            ++ [BitVec.ofNat 8 h.nodeName.length] ++ h.nodeName
            ++ be64Bits h.nonce ++ d ++ be64Bits h.timestamp ∧
          w.length = 30 + h.appName.length + h.nodeName.length + d.length ∧
          exec (.hsEnc h) s = .next { s with answer := some ⟨.ok, some (.bytes w)⟩ }))

/-- R111: `HS_DEC` field by field, by the offsets of the record: with `A` and `N` the name lengths and
`D` the declSize, the first test that fails is the status, and the record and the count of its bytes are
the result; bytes after it are ignored and no state is written. -/
def Obligations.HsDecFollowsRecordLayout : Prop :=
  ∀ (b : Bytes) (s : State),
    let a := (byteAt b 0).toNat
    let n := (byteAt b (13 + a)).toNat
    let d := rdBe b (22 + a + n) 4
    let port := rdBe b (22 + a + n + d) 4
    let decl := if d = 0 then none
      else some (DeclAddress.mk (byteSlice b (26 + a + n) (22 + a + n + d)) (BitVec.ofNat 32 port))
    let record : Handshake :=
      { appName := byteSlice b 1 (1 + a)
        version := ⟨u32At b (1 + a), u32At b (5 + a), u32At b (9 + a)⟩
        nodeName := byteSlice b (14 + a) (14 + a + n)
        nonce := BitVec.ofNat 64 (rdBe b (14 + a + n) 8)
        declAddress := decl
        timestamp := BitVec.ofNat 64 (rdBe b (26 + a + n + d) 8) }
    exec (.hsDec b) s = .next { s with answer := some (
      if b.length < 1 then ⟨.error .messageTooShort, none⟩
      else if b.length < 14 + a then ⟨.error .messageTooShort, none⟩
      else if b.length < 26 + a + n then ⟨.error .messageTooShort, none⟩
      else if d ≠ 0 ∧ d ≠ 8 ∧ d ≠ 20 then ⟨.error .invalidAddressLength, none⟩
      else if d ≠ 0 ∧ b.length < 26 + a + n + d then ⟨.error .messageTooShort, none⟩
      else if d ≠ 0 ∧ 65535 < port then ⟨.error .invalidPort, none⟩
      else if b.length < 34 + a + n + d then ⟨.error .messageTooShort, none⟩
      else ⟨.ok, some (.handshake record (34 + a + n + d))⟩) }

/-- R111's truncation: an encoded handshake cut short anywhere raises `MessageTooShort`. -/
def Obligations.HsDecOfTruncatedHandshakeIsTooShort : Prop :=
  ∀ (h : Handshake) (w : Bytes) (k : Nat) (s : State),
    exec (.hsEnc h) s = .next { s with answer := some ⟨.ok, some (.bytes w)⟩ } → k < w.length →
    exec (.hsDec (w.take k)) s = .next { s with answer := some ⟨.error .messageTooShort, none⟩ }

/-- R112: every 4-byte and every 16-byte string is a valid address, and no instruction answers
`InvalidAddress`, not inside an event of any of the three forms of R35 either. That the check always passes
is general knowledge (log entry 9). -/
def Obligations.InvalidAddressIsNeverRaised : Prop :=
  (∀ ip : Bytes, ip.length = 4 ∨ ip.length = 16 → addrOk ip = true) ∧
  ∀ (i : Instr) (s t : State) (a : Answer), exec i s = .next t → t.answer = some a →
    a.status ≠ .error .invalidAddress ∧
    ∀ es, a.result = some (.events es) →
      (∀ h n, Event.handshake (.error .invalidAddress) h n ∉ es) ∧
      (∀ f m, Event.frame f (.error .invalidAddress) m ∉ es) ∧
      (∀ n, Event.fault (.error .invalidAddress) n ∉ es)

/-- R113: an encodable handshake followed by any bytes decodes to itself and the length of its encoding;
one with a 16-byte address does not re-encode. -/
def Obligations.HandshakeRoundTrip : Prop :=
  (∀ (h : Handshake) (t : Bytes) (s : State), h.encodable = true → ∃ w,
    exec (.hsEnc h) s = .next { s with answer := some ⟨.ok, some (.bytes w)⟩ } ∧
    exec (.hsDec (w ++ t)) s =
      .next { s with answer := some ⟨.ok, some (.handshake h w.length)⟩ }) ∧
  (∀ (b : Bytes) (h : Handshake) (n : Nat) (s : State),
    exec (.hsDec b) s = .next { s with answer := some ⟨.ok, some (.handshake h n)⟩ } →
    (∃ a, h.declAddress = some a ∧ a.ip.length = 16) →
    exec (.hsEnc h) s = .next { s with answer := some ⟨.error .unsupportedAddress, none⟩ })

/-! ## Header -/

/-- R130: the fields are written exactly as given, the checksum only with `payloadLength > 0`; a checksum
whose presence disagrees raises `InvalidRecord`; no state is written. -/
def Obligations.HdrEncWritesFieldsAsGiven : Prop :=
  ∀ (pl : U32) (m : Quad) (cid : Byte) (pll : U32) (q : Quad) (s : State),
    (pll = 0 →
      exec (.hdrEnc ⟨pl, m, cid, pll, none⟩) s = .next { s with answer := some ⟨.ok, some (.bytes
        (be32Bits pl ++ [m.b0, m.b1, m.b2, m.b3] ++ [cid] ++ [0, 0, 0, 0]))⟩ } ∧
      exec (.hdrEnc ⟨pl, m, cid, pll, some q⟩) s =
        .next { s with answer := some ⟨.error .invalidRecord, none⟩ }) ∧
    (pll ≠ 0 →
      exec (.hdrEnc ⟨pl, m, cid, pll, some q⟩) s = .next { s with answer := some ⟨.ok, some (.bytes
        (be32Bits pl ++ [m.b0, m.b1, m.b2, m.b3] ++ [cid] ++ be32Bits pll
          ++ [q.b0, q.b1, q.b2, q.b3]))⟩ } ∧
      exec (.hdrEnc ⟨pl, m, cid, pll, none⟩) s =
        .next { s with answer := some ⟨.error .invalidRecord, none⟩ })

/-- R131: the header's fields at their offsets and its size, 13 or 17; the magic is not checked, bytes
after the header are ignored, and no state is written. -/
def Obligations.HdrDecReadsFieldsAtOffsets : Prop :=
  ∀ s : State,
    (∀ b : Bytes, b.length < 13 →
      exec (.hdrDec b) s = .next { s with answer := some ⟨.error .messageTooShort, none⟩ }) ∧
    (∀ (l0 l1 l2 l3 m0 m1 m2 m3 cid p0 p1 p2 p3 : Byte) (t : Bytes),
      let b := l0 :: l1 :: l2 :: l3 :: m0 :: m1 :: m2 :: m3 :: cid :: p0 :: p1 :: p2 :: p3 :: t
      let pl : U32 := l0 ++ l1 ++ l2 ++ l3
      let pll : U32 := p0 ++ p1 ++ p2 ++ p3
      (pll = 0 →
        exec (.hdrDec b) s = .next { s with answer := some ⟨.ok,
          some (.header ⟨pl, ⟨m0, m1, m2, m3⟩, cid, 0, none⟩ 13)⟩ }) ∧
      (pll ≠ 0 → t.length < 4 →
        exec (.hdrDec b) s = .next { s with answer := some ⟨.error .messageTooShort, none⟩ }) ∧
      (∀ c0 c1 c2 c3 u, pll ≠ 0 → t = c0 :: c1 :: c2 :: c3 :: u →
        exec (.hdrDec b) s = .next { s with answer := some ⟨.ok,
          some (.header ⟨pl, ⟨m0, m1, m2, m3⟩, cid, pll, some ⟨c0, c1, c2, c3⟩⟩ 17)⟩ }))

/-- R132: a well-formed header encodes to 13 bytes without a payload and to 17 otherwise, and decodes to
itself with any bytes after it. -/
def Obligations.HeaderRoundTrip : Prop :=
  ∀ (h : Header) (t : Bytes) (s : State), h.wellFormed = true → ∃ w,
    exec (.hdrEnc h) s = .next { s with answer := some ⟨.ok, some (.bytes w)⟩ } ∧
    w.length = (if h.payloadLength = 0 then 13 else 17) ∧
    exec (.hdrDec (w ++ t)) s = .next { s with answer := some ⟨.ok, some (.header h w.length)⟩ }

/-! ## Message -/

/-- R140: `MSG_ENC` derives both lengths and the checksum from the payload and writes header, then
payload; a `packetLength` that does not fit raises `LengthOverflow`; no state is written. -/
def Obligations.MsgEncBuildsFrame : Prop :=
  ∀ (cid : Byte) (p : Bytes) (s : State),
    (p = [] → exec (.msgEnc cid p) s = .next { s with answer := some ⟨.ok, some (.bytes
      [0, 0, 0, 9, 0x12, 0x34, 0x56, 0x78, cid, 0, 0, 0, 0])⟩ }) ∧
    (p ≠ [] → p.length ≤ 2 ^ 32 - 14 →
      exec (.msgEnc cid p) s = .next { s with answer := some ⟨.ok, some (.bytes
        (be32Bits (BitVec.ofNat 32 (p.length + 13)) ++ [0x12, 0x34, 0x56, 0x78] ++ [cid]
          ++ be32Bits (BitVec.ofNat 32 p.length) ++ (Config.hash p).toList.take 4 ++ p))⟩ }) ∧
    (2 ^ 32 - 14 < p.length →
      exec (.msgEnc cid p) s = .next { s with answer := some ⟨.error .lengthOverflow, none⟩ })

/-- R141 and R142: below 13 bytes too short; 13 to 16 bytes a header only; from 17 on, the header and the
rest by content-id: a Peers payload for 0x02, whose error is the status, else nothing or the bytes as
they are. The lengths, the magic and the checksum are not checked, and no state is written. -/
def Obligations.MsgDecDispatchesOnContentId : Prop :=
  ∀ (b : Bytes) (s : State),
    let size := if rdBe b 9 4 = 0 then 13 else 17
    let header (ck : Option Quad) : Header :=
      ⟨u32At b 0, quadAt b 4, byteAt b 8, u32At b 9, ck⟩
    let full := header (if rdBe b 9 4 = 0 then none else some (quadAt b 13))
    (b.length < 13 →
      exec (.msgDec b) s = .next { s with answer := some ⟨.error .messageTooShort, none⟩ }) ∧
    (13 ≤ b.length → b.length < 17 →
      exec (.msgDec b) s = .next { s with answer := some ⟨.ok,
        some (.message ⟨header none, .none⟩)⟩ }) ∧
    (17 ≤ b.length → byteAt b 8 = 0x02 →
      (∀ ps, exec (.peersDec (b.drop size)) s =
          .next { s with answer := some ⟨.ok, some (.peers ps)⟩ } →
        exec (.msgDec b) s = .next { s with answer := some ⟨.ok,
          some (.message ⟨full, .peers ps⟩)⟩ }) ∧
      (∀ e, exec (.peersDec (b.drop size)) s =
          .next { s with answer := some ⟨.error e, none⟩ } →
        exec (.msgDec b) s = .next { s with answer := some ⟨.error e, none⟩ })) ∧
    (17 ≤ b.length → byteAt b 8 ≠ 0x02 → b.drop size = [] →
      exec (.msgDec b) s = .next { s with answer := some ⟨.ok,
        some (.message ⟨full, .none⟩)⟩ }) ∧
    (17 ≤ b.length → byteAt b 8 ≠ 0x02 → b.drop size ≠ [] →
      exec (.msgDec b) s = .next { s with answer := some ⟨.ok,
        some (.message ⟨full, .opaqueBytes (b.drop size)⟩)⟩ })

/-- R144: the Message round trip, for an absent payload, a Peers payload and an opaque one. -/
def Obligations.MessageRoundTrip : Prop :=
  ∀ (cid : Byte) (p : Bytes) (s : State), p.length ≤ 2 ^ 32 - 14 → ∃ f q,
    exec (.msgEnc cid p) s = .next { s with answer := some ⟨.ok, some (.bytes f)⟩ } ∧
    exec (.cksum p) s = .next { s with answer := some ⟨.ok, some (.bytes [q.b0, q.b1, q.b2, q.b3])⟩ } ∧
    let header : Header := ⟨BitVec.ofNat 32 (f.length - 4), ⟨0x12, 0x34, 0x56, 0x78⟩, cid,
      BitVec.ofNat 32 p.length, if p = [] then none else some q⟩
    f.length - 4 < 2 ^ 32 ∧
    (p = [] → exec (.msgDec f) s = .next { s with answer := some ⟨.ok,
      some (.message ⟨header, .none⟩)⟩ }) ∧
    (∀ ps, cid = 0x02 →
      exec (.peersEnc ps) s = .next { s with answer := some ⟨.ok, some (.bytes p)⟩ } →
      exec (.msgDec f) s = .next { s with answer := some ⟨.ok,
        some (.message ⟨header, .peers ps⟩)⟩ }) ∧
    (cid ≠ 0x02 → p ≠ [] → exec (.msgDec f) s = .next { s with answer := some ⟨.ok,
      some (.message ⟨header, .opaqueBytes p⟩)⟩ })

/-- R143: the received checksum is not verified: whatever four bytes stand there, the frame decodes to
the same header but for those bytes, and to the same payload or the same error. -/
def Obligations.ReceivedChecksumIsNotVerified : Prop :=
  ∀ (fixed rest : Bytes) (s : State), fixed.length = 13 → 0 < rdBe fixed 9 4 →
    ∃ (h : Header) (r : Except ErrorCode Payload), ∀ q : Quad,
      exec (.msgDec (fixed ++ [q.b0, q.b1, q.b2, q.b3] ++ rest)) s = .next { s with answer := some (
        match r with
        | .ok p => ⟨.ok, some (.message ⟨{ h with checksum := some q }, p⟩)⟩
        | .error e => ⟨.error e, none⟩) }

/-! ## Content-ids -/

/-- R70, R71: each of the ten listed content-ids without a decoder leaves its payload opaque, or gives
none when there are no bytes; `peers` decodes its payload. Running an entry by itself is the model's (log
entry 6). -/
def Obligations.ContentIdEntriesDecodePayloads : Prop :=
  ∀ (rest : Bytes) (s : State),
    (∀ i ∈ [Instr.cidGetPeers rest, .cidSignatures rest, .cidGetBlock rest, .cidBlock rest,
        .cidScore rest, .cidTransaction rest, .cidInvMicroblock rest, .cidMicroblockRequest rest,
        .cidMicroblock rest, .cidCheckpoint rest],
      (rest = [] →
        exec i s = .next { s with answer := some ⟨.ok, some (.payload .none)⟩ }) ∧
      (rest ≠ [] →
        exec i s = .next { s with answer := some ⟨.ok, some (.payload (.opaqueBytes rest))⟩ })) ∧
    (rest.length < 4 →
      exec (.cidPeers rest) s = .next { s with answer := some ⟨.error .messageTooShort, none⟩ }) ∧
    (4 ≤ rest.length → rest.length < 4 + 8 * rdBe rest 0 4 →
      exec (.cidPeers rest) s = .next { s with answer := some ⟨.error .messageTooShort, none⟩ }) ∧
    (4 ≤ rest.length → 4 + 8 * rdBe rest 0 4 ≤ rest.length → ∃ ps : List Peer,
      exec (.cidPeers rest) s =
        .next { s with answer := some ⟨.ok, some (.payload (.peers ps))⟩ } ∧
      exec (.peersDec rest) s = .next { s with answer := some ⟨.ok, some (.peers ps)⟩ } ∧
      ps.length = rdBe rest 0 4)

/-- `MSG_DEC` and the entries of the payload decoder table agree: the payload of a frame, or its error, is
what a step answers for the frame's content-id, listed or not, and the bytes after its header (R142; a
step that runs an entry by itself is the model's, log entry 6). -/
def Obligations.MsgDecUsesPayloadTable : Prop :=
  ∀ (b : Bytes) (s : State), 17 ≤ b.length →
    let size := if rdBe b 9 4 = 0 then 13 else 17
    ∃ (h : Header) (r : Except ErrorCode Payload),
      exec (.msgDec b) s = .next { s with answer := some (
        match r with
        | .ok p => ⟨.ok, some (.message ⟨h, p⟩)⟩
        | .error e => ⟨.error e, none⟩) } ∧
      step { s with pending := contentIdRequest (byteAt b 8) (b.drop size) :: s.pending } =
        .next { s with answer := some (
          match r with
          | .ok p => ⟨.ok, some (.payload p)⟩
          | .error e => ⟨.error e, none⟩) }

/-! ## Reassembler -/

/-- R196: a faulted block refuses every chunk and changes nothing, and no instruction but `RESET` clears
the fault or touches what the block holds. -/
def Obligations.FaultedBlockRefusesChunks : Prop :=
  ∀ s : State, s.fault = true →
    (∀ c : Bytes,
      exec (.rxChunk c) s = .next { s with answer := some ⟨.error .frameTooLarge, none⟩ }) ∧
    (∀ (i : Instr) (t : State), i ≠ .reset → exec i s = .next t →
      t.fault = true ∧ t.rxMode = s.rxMode ∧ t.buf = s.buf ∧ t.target = s.target) ∧
    (∃ t, exec .reset s = .next t ∧ t.fault = false)

/-- R197: an empty chunk returns `OK` with no events and changes no state, in either mode. -/
def Obligations.EmptyChunkDoesNothing : Prop :=
  ∀ s : State, s.fault = false →
    exec (.rxChunk []) s = .next { s with answer := some ⟨.ok, some (.events [])⟩ }

/-- R192: the handshake chunk: what `HS_DEC` answers becomes the one event, the mode becomes `FRAMED`
whatever the status, and `BUF` and `TARGET` are not touched. -/
def Obligations.HandshakeChunkMovesToFramed : Prop :=
  ∀ (c : Bytes) (s : State), s.fault = false → s.rxMode = .handshake → c ≠ [] →
    (∀ h n, exec (.hsDec c) s =
        .next { s with answer := some ⟨.ok, some (.handshake h n)⟩ } →
      exec (.rxChunk c) s = .next { s with
        rxMode := .framed, answer := some ⟨.ok, some (.events [.handshake .ok (some h) n])⟩ }) ∧
    (∀ e, exec (.hsDec c) s = .next { s with answer := some ⟨.error e, none⟩ } →
      exec (.rxChunk c) s = .next { s with
        rxMode := .framed, answer := some ⟨.ok, some (.events [.handshake (.error e) none 0])⟩ }) ∧
    ((∃ h n, exec (.hsDec c) s =
        .next { s with answer := some ⟨.ok, some (.handshake h n)⟩ }) ∨
      ∃ e, exec (.hsDec c) s = .next { s with answer := some ⟨.error e, none⟩ })

/-- R193: `TARGET` is read when, and only when, it is unset and all 4 bytes of the prefix are there, as
`packetLength + 4` on 33 bits; a chunk that completes no frame is buffered and emits nothing. -/
def Obligations.IncompleteFrameWaits : Prop :=
  ∀ (c : Bytes) (s : State), s.fault = false → s.rxMode = .framed → c ≠ [] →
    (s.target = 0 → (s.buf ++ c).length < 4 →
      exec (.rxChunk c) s = .next { s with
        buf := s.buf ++ c, answer := some ⟨.ok, some (.events [])⟩ }) ∧
    (s.target = 0 → 4 ≤ (s.buf ++ c).length →
      (s.buf ++ c).length < rdBe (s.buf ++ c) 0 4 + 4 →
      exceedsMaxFrame s.params (rdBe (s.buf ++ c) 0 4 + 4) = false →
      ∃ target : BitVec 33, target.toNat = rdBe (s.buf ++ c) 0 4 + 4 ∧
        exec (.rxChunk c) s = .next { s with
          buf := s.buf ++ c, target := target, answer := some ⟨.ok, some (.events [])⟩ }) ∧
    (s.target ≠ 0 → (s.buf ++ c).length < s.target.toNat →
      exec (.rxChunk c) s = .next { s with
        buf := s.buf ++ c, answer := some ⟨.ok, some (.events [])⟩ })

/-- R194's event of one frame carries the frame and the status and result of `MSG_DEC` on it (R190). -/
def Obligations.FrameEventCarriesMsgDec : Prop :=
  ∀ (f : Bytes) (s : State),
    (∀ m, exec (.msgDec f) s = .next { s with answer := some ⟨.ok, some (.message m)⟩ } →
      frameEvent f = .frame f .ok (some m)) ∧
    (∀ e, exec (.msgDec f) s = .next { s with answer := some ⟨.error e, none⟩ } →
      frameEvent f = .frame f (.error e) none)

/-- R194, R198: in a framed block that keeps the invariants, the bytes buffered and received, cut into
complete frames and an incomplete rest, give one frame event per frame, in stream order, whether a frame
decodes or not, and leave the rest in `BUF`. -/
def Obligations.StreamOfFramesIsEmittedInOrder : Prop :=
  ∀ (fs : List Bytes) (rest c : Bytes) (s : State),
    s.Inv → s.fault = false → s.rxMode = .framed → c ≠ [] →
    s.buf ++ c = fs.flatten ++ rest →
    (∀ f ∈ fs, CompleteFrame s.params f) → IncompleteFrame s.params rest →
    ∃ target : BitVec 33,
      target.toNat = (if rest.length < 4 then 0 else frameLength rest) ∧
      exec (.rxChunk c) s = .next { s with
        buf := rest, target := target,
        answer := some ⟨.ok, some (.events (fs.map frameEvent))⟩ }

/-- R195: a prefix over a finite `MAX_FRAME` sets `FAULT`, emits the fault event after the frame events
before it, and leaves `BUF` and `TARGET` as they are; with `MAX_FRAME = INF` no chunk ever faults. -/
def Obligations.OversizePrefixFaults : Prop :=
  (∀ (fs : List Bytes) (rest c : Bytes) (s : State),
    s.Inv → s.fault = false → s.rxMode = .framed → c ≠ [] →
    s.buf ++ c = fs.flatten ++ rest →
    (∀ f ∈ fs, CompleteFrame s.params f) → OversizePrefix s.params rest →
    ∃ target : BitVec 33,
      target.toNat = frameLength rest ∧
      exec (.rxChunk c) s = .next { s with
        buf := rest, target := target, fault := true,
        answer := some ⟨.ok, some (.events
          (fs.map frameEvent ++ [.fault (.error .frameTooLarge) target]))⟩ }) ∧
  ∀ (c : Bytes) (s : State), s.params.maxFrame = none → s.fault = false →
    ∃ t es, exec (.rxChunk c) s = .next t ∧ t.answer = some ⟨.ok, some (.events es)⟩ ∧
      t.fault = false ∧ reportsFault es = false

/-- R200: chunk-boundary invariance: delivering two chunks emits the events, in order, that delivering
them as one emits, and leaves the same state. -/
def Obligations.ChunkBoundariesDoNotMatter : Prop :=
  ∀ (c1 c2 : Bytes) (s t : State) (es : List Event),
    s.rxMode = .framed → s.fault = false →
    exec (.rxChunk (c1 ++ c2)) s = .next t →
    t.answer = some ⟨.ok, some (.events es)⟩ → reportsFault es = false →
    ∃ es1 es2 : List Event, ∃ t1 t2 : State,
      exec (.rxChunk c1) s = .next t1 ∧ t1.answer = some ⟨.ok, some (.events es1)⟩ ∧
      exec (.rxChunk c2) t1 = .next t2 ∧ t2.answer = some ⟨.ok, some (.events es2)⟩ ∧
      es1 ++ es2 = es ∧ { t2 with answer := t.answer } = t

/-- R76 with R200: any cutting of a byte string into chunks, run as `RX_STREAM`, answers the events of
the one chunk and leaves the same state. What `RX_STREAM` of no chunks answers is the model's choice (log
entry 16). -/
def Obligations.AnyChunkingGivesTheSameStream : Prop :=
  ∀ (cs : List Bytes) (s t : State) (es : List Event),
    s.rxMode = .framed → s.fault = false →
    exec (.rxChunk cs.flatten) s = .next t →
    t.answer = some ⟨.ok, some (.events es)⟩ → reportsFault es = false →
    runPseudo (.rxStream cs) s = .next t

/-- No byte is lost or invented by a framed block: the frames emitted and what `BUF` then holds are
exactly what `BUF` held and the chunk, in order, whether or not the block faults (R191, R194, R195). -/
def Obligations.FramedBytesAreConserved : Prop :=
  ∀ (c : Bytes) (s t : State) (es : List Event),
    s.rxMode = .framed → s.fault = false → exec (.rxChunk c) s = .next t →
    t.answer = some ⟨.ok, some (.events es)⟩ →
    s.buf ++ c = (framesOf es).flatten ++ t.buf

/-- R53: no frame longer than a finite `MAX_FRAME` is ever sliced from `BUF`, and every frame has the
length its prefix says (R68). -/
def Obligations.SlicedFramesRespectMaxFrame : Prop :=
  ∀ (c : Bytes) (s t : State) (es : List Event) (f : Bytes),
    s.Inv → s.fault = false → exec (.rxChunk c) s = .next t →
    t.answer = some ⟨.ok, some (.events es)⟩ → f ∈ framesOf es →
    f.length = frameLength f ∧ ∀ m, s.params.maxFrame = some m → f.length ≤ m

/-- R45: the reassembler's packetLength and the header's are the same value of the same 4 bytes. -/
def Obligations.PacketLengthReadTwiceAgrees : Prop :=
  ∀ (f : Bytes) (m : Message) (s : State),
    exec (.msgDec f) s = .next { s with answer := some ⟨.ok, some (.message m)⟩ } →
    m.header.packetLength.toNat + 4 = frameLength f

/-! ## Control -/

/-- R220: `RESET` writes the reset values, answers `OK` with no result, and does nothing a second time
(R49). -/
def Obligations.ResetWritesResetValues : Prop :=
  ∀ s : State, ∃ t : State,
    t = { s with rxMode := .handshake, buf := [], target := 0, fault := false,
                 answer := some ⟨.ok, none⟩ } ∧
    exec .reset s = .next t ∧ exec .reset t = .next t

/-- R270: power-on reset gives the four items their reset values, and leaves exactly the state `RESET`
leaves; the parameters are as the block was built. -/
def Obligations.PowerOnIsTheStateResetLeaves : Prop :=
  ∀ p : Config.Params,
    (State.powerOn p).rxMode = .handshake ∧ (State.powerOn p).buf = [] ∧
    (State.powerOn p).target = 0 ∧ (State.powerOn p).fault = false ∧
    ∀ s t : State, s.params = p → exec .reset s = .next t →
      (t.rxMode, t.buf, t.target, t.fault, t.params) =
        ((State.powerOn p).rxMode, (State.powerOn p).buf, (State.powerOn p).target,
          (State.powerOn p).fault, (State.powerOn p).params)

/-- R221: a command request whose opcode is not one of the 19 answers `IllegalCommand`, whatever its
operands are, and writes no state. The request stands at the head of the model's list (log entry 1). -/
def Obligations.IllegalOpcodeAnswersIllegalCommand : Prop :=
  ∀ (op : Byte) (args : Operands) (rest : List Request) (s : State), op ∉ commandOpcodes →
    step { s with pending := ⟨.command, op, args⟩ :: rest } =
      .next { s with pending := rest, answer := some ⟨.error .illegalCommand, none⟩ }

/-! ## Encoding -/

/-- R73, R61: exactly the 19 bytes of R72 are commands, whatever the operands; 237 bytes are not, among
them every byte with the reserved bit set, width code 11 of the integer codec, and units 9 to 15. -/
def Obligations.OnlyTheCommandMapDecodes : Prop :=
  (∀ (op : Byte) (args : Operands),
    (∃ i, decode ⟨.command, op, args⟩ = .ok i) ↔ op ∈ commandOpcodes) ∧
  ((List.range 256).filter fun n => BitVec.ofNat 8 n ∉ commandOpcodes).length = 237 ∧
  (0x00 : Byte) ∉ commandOpcodes ∧ (0x13 : Byte) ∉ commandOpcodes ∧ (0x1B : Byte) ∉ commandOpcodes ∧
  ∀ op : Byte, op.getLsbD 2 = true ∨ 9 ≤ op.toNat / 16 → op ∉ commandOpcodes

/-- Decode and encode agree: every instruction is decoded from its encoding; a request that decodes to an
instruction has the port and the byte of that instruction's encoding, and the instruction reads its
operands from that request; two instructions with one encoding are the same (R72, R70; the typed operands
and the content-id port are the model's, log entries 5 and 6). -/
def Obligations.DecodeEncodeAgree : Prop :=
  (∀ i : Instr, decode (encode i) = .ok i) ∧
  (∀ (r : Request) (i : Instr), decode r = .ok i →
    (encode i).port = r.port ∧ (encode i).op = r.op ∧
    decode { encode i with args := r.args } = .ok i) ∧
  (∀ i j : Instr, encode i = encode j → i = j)

/-- R72: some command bytes, written out bit by bit as unit, direction, reserved bit and width code
(R61), and the instructions they stand for. -/
def Obligations.SampleOpcodesDecode : Prop :=
  ∀ a : Operands,
    decode ⟨.command, 0b00000001#8, a⟩ = .ok .reset ∧
    decode ⟨.command, 0b00010010#8, a⟩ = .ok (.beEnc8 a.u64) ∧
    decode ⟨.command, 0b00011001#8, a⟩ = .ok (.beDec4 a.bytes) ∧
    decode ⟨.command, 0b00100000#8, a⟩ = .ok (.cksum a.bytes) ∧
    decode ⟨.command, 0b00111000#8, a⟩ = .ok (.addrDec a.bytes) ∧
    decode ⟨.command, 0b01000000#8, a⟩ = .ok (.hsEnc a.handshake) ∧
    decode ⟨.command, 0b01011000#8, a⟩ = .ok (.hdrDec a.bytes) ∧
    decode ⟨.command, 0b01100000#8, a⟩ = .ok (.msgEnc a.u8 a.bytes) ∧
    decode ⟨.command, 0b01110000#8, a⟩ = .ok (.peersEnc a.peers) ∧
    decode ⟨.command, 0b10000000#8, a⟩ = .ok (.rxChunk a.bytes)

/-! ## Steps, answers and invariants -/

/-- A step runs the decoded instruction: when the host's next request decodes to an instruction, the step
is that instruction's meaning on the state with the request taken off the list (R48, R52; the list is the
model's, log entry 1). -/
def Obligations.StepRunsTheDecodedInstruction : Prop :=
  ∀ (s : State) (r : Request) (rest : List Request) (i : Instr),
    s.pending = r :: rest → decode r = .ok i → step s = exec i { s with pending := rest }

/-- R252: between commands the block does nothing, and its state persists. That an idle block takes steps
is the model's choice (log entry 1). -/
def Obligations.IdleStepKeepsTheState : Prop :=
  ∀ s : State, s.pending = [] → step s = .next s

/-- R60, R245: every step is a next state, never a fault or a refusal; it takes one request off the list
and answers it, with a status and, when it is `OK` and the command is not `RESET`, a result. The list of
requests is the model's (log entry 1). -/
def Obligations.EveryRequestIsAnswered : Prop :=
  ∀ s : State, ∃ t : State, step s = .next t ∧ t.pending = s.pending.drop 1 ∧
    ∀ r rest, s.pending = r :: rest → ∃ a, t.answer = some a ∧
      (decode r = .ok .reset → a = ⟨.ok, none⟩) ∧
      (decode r ≠ .ok .reset → (a.result.isSome ↔ a.status = .ok))

/-- R242: a command that ends in an error returns no result value and writes no state. -/
def Obligations.ErrorsWriteNoState : Prop :=
  ∀ (i : Instr) (s t : State) (a : Answer) (e : ErrorCode),
    exec i s = .next t → t.answer = some a → a.status = .error e →
    a.result = none ∧ t = { s with answer := some ⟨.error e, none⟩ }

/-- R49, R20: every instruction but `RX_CHUNK` and `RESET` is a pure function of its operands: its answer
is the same in every state, and it writes no state. -/
def Obligations.CodecCommandsArePure : Prop :=
  ∀ i : Instr, i ≠ .reset → (∀ c, i ≠ .rxChunk c) →
    ∃ a : Answer, ∀ s : State, exec i s = .next { s with answer := some a }

/-- R21, R24, R29: `RX_MODE` leaves `FRAMED` only by `RESET` and leaves `HANDSHAKE` only by a non-empty
chunk; `FAULT` is set only by a chunk under a finite `MAX_FRAME` and cleared only by `RESET`; no instruction
writes the parameters (a field of State by the model's choice, log entry 3) or the host's requests (the
model's list, log entry 1). -/
def Obligations.ModeAndFaultHaveOnlyTheirWriters : Prop :=
  ∀ (i : Instr) (s t : State), exec i s = .next t →
    (s.rxMode = .framed → t.rxMode = .handshake → i = .reset) ∧
    (s.rxMode = .handshake → t.rxMode = .framed → s.fault = false ∧ ∃ c, c ≠ [] ∧ i = .rxChunk c) ∧
    (s.fault = false → t.fault = true →
      (∃ c, i = .rxChunk c) ∧ s.rxMode = .framed ∧ ∃ m, s.params.maxFrame = some m) ∧
    (s.fault = true → t.fault = false → i = .reset) ∧
    t.params = s.params ∧ t.pending = s.pending

/-- R25 is established by power-on, with every parameter, at `State.reset` among them. -/
def Obligations.PowerOnEstablishesInvariants : Prop :=
  (∀ p : Config.Params, (State.powerOn p).Inv ∧ (State.powerOn p).FaultInv ∧
    (State.powerOn p).TargetInRange) ∧
  State.reset.Inv ∧ State.reset.FaultInv ∧ State.reset.TargetInRange ∧ State.reset.params.WF

/-- R25: every step keeps the invariants that hold while `FAULT = 0`, from every state that has them, and
`RESET` establishes them in every state. -/
def Obligations.StepKeepsReassemblyInvariant : Prop :=
  (∀ s t : State, s.Inv → step s = .next t → t.Inv) ∧
  ∀ s t : State, exec .reset s = .next t → t.fault = false ∧ t.Inv

/-- R24, R195: every step keeps what holds while `FAULT = 1`, from every state that has it and the
invariants of R25. -/
def Obligations.StepKeepsFaultInvariant : Prop :=
  ∀ s t : State, s.Inv → s.FaultInv → step s = .next t → t.FaultInv

/-- R23: every step keeps `TARGET` at 0 or in the range 4..2^32+3: the 33-bit sum never wraps. -/
def Obligations.StepKeepsTargetInRange : Prop :=
  ∀ s t : State, s.TargetInRange → step s = .next t → t.TargetInRange

/-- R22: while the block is not faulted and `MAX_FRAME` is finite, `BUF` holds at most `MAX_FRAME - 1`
bytes, in every state with the invariants of R25 and a legal parameter (R7). -/
def Obligations.BufferStaysBelowMaxFrame : Prop :=
  ∀ (s : State) (m : Nat), s.Inv → s.fault = false → s.params.WF → s.params.maxFrame = some m →
    s.buf.length ≤ m - 1

/-! ## Codes and records -/

/-- R240: the numeric status codes; the eleven are distinct, and 0x0B..0xFF are never a status. -/
def Obligations.StatusCodesAreTheListedOnes : Prop :=
  Status.code .ok = 0x00 ∧
  Status.code (.error .messageTooShort) = 0x01 ∧
  Status.code (.error .invalidAddressLength) = 0x02 ∧
  Status.code (.error .invalidAddress) = 0x03 ∧
  Status.code (.error .invalidPort) = 0x04 ∧
  Status.code (.error .nameTooLong) = 0x05 ∧
  Status.code (.error .unsupportedAddress) = 0x06 ∧
  Status.code (.error .lengthOverflow) = 0x07 ∧
  Status.code (.error .frameTooLarge) = 0x08 ∧
  Status.code (.error .illegalCommand) = 0x09 ∧
  Status.code (.error .invalidRecord) = 0x0A ∧
  (∀ s t : Status, s.code = t.code → s = t) ∧
  ∀ s : Status, s.code.toNat ≤ 0x0A

/-- The model's WellFormed, the record constraints of R30 to R33 with the length bounds of R140 and R172, is
exactly what the encode commands ask (R110, R130, R140, R170, R172): an encode command answers `OK` just
when its instruction is well-formed. -/
def Obligations.EncodersAcceptExactlyWellFormed : Prop :=
  ∀ (i : Instr) (s t : State) (a : Answer),
    (∃ p, i = .addrEnc p) ∨ (∃ h, i = .hsEnc h) ∨ (∃ h, i = .hdrEnc h) ∨
      (∃ cid p, i = .msgEnc cid p) ∨ (∃ ps, i = .peersEnc ps) →
    exec i s = .next t → t.answer = some a → (a.status = .ok ↔ i.wellFormed = true)

/-- R76: `MSG_ENC_PEERS` gives a frame, which `MSG_DEC` reads back as the same peers by R144's second case
(spec/43_message.md); the expansion stops at
the first status that is not `OK`; the other two are the `MSG_ENC` they stand for. What the answer of a
stopped expansion holds is the model's (log entry 16). -/
def Obligations.PseudoCommandsExpand : Prop :=
  ∀ (ps : List Peer) (cid : Byte) (s : State),
    (∀ p, exec (.peersEnc ps) s = .next { s with answer := some ⟨.ok, some (.bytes p)⟩ } →
      runPseudo (.msgEncPeers ps) s = exec (.msgEnc 0x02 p) s) ∧
    (∀ e, exec (.peersEnc ps) s = .next { s with answer := some ⟨.error e, none⟩ } →
      runPseudo (.msgEncPeers ps) s = .next { s with answer := some ⟨.error e, none⟩ }) ∧
    (runPseudo (.msgEncEmpty cid) s = exec (.msgEnc cid []) s) ∧
    (runPseudo .getPeers s = exec (.msgEnc 0x01 []) s) ∧
    (4 + 8 * ps.length ≤ 2 ^ 32 - 14 → (∀ a ∈ ps, a.ip.length = 4) → ∃ f h,
      runPseudo (.msgEncPeers ps) s = .next { s with answer := some ⟨.ok, some (.bytes f)⟩ } ∧
      exec (.msgDec f) s = .next { s with answer := some ⟨.ok,
        some (.message ⟨h, .peers ps⟩)⟩ })

/-- R272's first steps: from any state, the host's boot sequence leaves, after `RESET` and `HS_ENC`, a
block at its reset values that waits for the first chunk, and the greeting's bytes when it is encodable.
The requests stand in the model's list (log entry 1). -/
def Obligations.BootSequenceStartsConnection : Prop :=
  ∀ (s : State) (greeting : Handshake) (chunks : List Bytes), ∃ t : State,
    Host.Core.run Sys2Proof.core 2 { s with pending := bootSequence greeting chunks } = .next t ∧
    (t.rxMode, t.buf, t.target, t.fault, t.params) = (.handshake, [], 0, false, s.params) ∧
    t.pending = chunks.map (fun c => encode (.rxChunk c)) ∧
    (greeting.encodable = true → ∃ w, t.answer = some ⟨.ok, some (.bytes w)⟩ ∧
      ∀ u : State, exec (.hsEnc greeting) u =
        .next { u with answer := some ⟨.ok, some (.bytes w)⟩ })

/-- Every pending request is taken, one a step: as many steps as there are requests end in a next state
with none left and an answer to the last, and the invariants of R25 hold there if they held (R52; the
list is the model's, log entry 1). -/
def Obligations.PendingRequestsAreAllServed : Prop :=
  ∀ s : State, s.Inv → ∃ t : State,
    Host.Core.run Sys2Proof.core s.pending.length s = .next t ∧ t.pending = [] ∧
    t.params = s.params ∧ t.Inv ∧ (s.pending ≠ [] → t.answer.isSome)

/-- R34, R28: the payload kinds are the constructors of the payload, numbered 0, 1 and 2. `MSG_DEC` returns
the kind its frame's length, content-id and rest select (R141, R142), an error returns none, and the frame
event of those bytes returns the same kind; the other events return none. R21: the bit of each mode. -/
def Obligations.PayloadKindsAreTheListedOnes : Prop :=
  PayloadKind.code .none = 0 ∧ PayloadKind.code .peers = 1 ∧ PayloadKind.code .opaqueBytes = 2 ∧
  Payload.kind .none = .none ∧
  (∀ ps, Payload.kind (.peers ps) = .peers) ∧ (∀ b, Payload.kind (.opaqueBytes b) = .opaqueBytes) ∧
  RxMode.bit .handshake = 0 ∧ RxMode.bit .framed = 1 ∧
  (∀ st h n, (Event.handshake st h n).payloadKind = none) ∧
  (∀ st n, (Event.fault st n).payloadKind = none) ∧
  ∀ (b : Bytes) (s : State), ∃ a : Answer,
    let rest := b.drop (if rdBe b 9 4 = 0 then 13 else 17)
    exec (.msgDec b) s = .next { s with answer := some a } ∧
    (frameEvent b).payloadKind = a.payloadKind ∧
    (a.status ≠ .ok → a.payloadKind = none) ∧
    (13 ≤ b.length → b.length < 17 → a.payloadKind = some .none) ∧
    (17 ≤ b.length → byteAt b 8 = 0x02 → a.status = .ok → a.payloadKind = some .peers) ∧
    (17 ≤ b.length → byteAt b 8 ≠ 0x02 → rest = [] → a.payloadKind = some .none) ∧
    (17 ≤ b.length → byteAt b 8 ≠ 0x02 → rest ≠ [] → a.payloadKind = some .opaqueBytes)
end

