-- ==== Sys2Proof/Laws/Ops.lean ====
section
/-!
SUPPORT. What the shared operations can do: the big-endian functions (R100, R101), the reads of a decoder
(R111), and the ways a command ends (R242).
-/

namespace Sys2Proof.Machine

/-! ## Big-endian integers -/

@[simp] theorem beBytes_length (n v : Nat) : (beBytes n v).length = n := by
  induction n generalizing v with
  | zero => rfl
  | succ n ih => simp [beBytes, ih]

theorem beValue_nil : beValue [] = 0 := rfl

theorem foldl_be (b : Bytes) (acc : Nat) :
    b.foldl (fun acc x => acc * 256 + x.toNat) acc = acc * 256 ^ b.length + beValue b := by
  induction b generalizing acc with
  | nil => simp [beValue]
  | cons x b ih =>
    simp only [List.foldl_cons, List.length_cons, beValue]
    rw [ih, ih (0 * 256 + x.toNat)]
    ring

theorem beValue_cons (x : Byte) (b : Bytes) :
    beValue (x :: b) = x.toNat * 256 ^ b.length + beValue b := by
  have h := foldl_be b x.toNat
  simpa [beValue] using h

theorem beValue_append (a b : Bytes) :
    beValue (a ++ b) = beValue a * 256 ^ b.length + beValue b := by
  rw [beValue, List.foldl_append]
  exact foldl_be b (beValue a)

/-- The value of `n` bytes is below `2^(8n)` (R101). -/
theorem beValue_lt (b : Bytes) : beValue b < 256 ^ b.length := by
  induction b with
  | nil => simp [beValue]
  | cons x b ih =>
    rw [beValue_cons, List.length_cons, pow_succ]
    have hx : x.toNat < 256 := x.isLt
    calc x.toNat * 256 ^ b.length + beValue b
        < x.toNat * 256 ^ b.length + 256 ^ b.length := by omega
      _ = (x.toNat + 1) * 256 ^ b.length := by ring
      _ ≤ 256 * 256 ^ b.length := Nat.mul_le_mul_right _ hx
      _ = 256 ^ b.length * 256 := by ring

/-- `rd_be` after `be_n` keeps the low `8n` bits of a value (R100, R101). -/
theorem beValue_beBytes (n v : Nat) : beValue (beBytes n v) = v % 256 ^ n := by
  induction n generalizing v with
  | zero => simp [beBytes, beValue, Nat.mod_one]
  | succ n ih =>
    rw [beBytes, beValue_cons, ih, beBytes_length, BitVec.toNat_ofNat]
    have h : v % (256 ^ n * 256) = v % 256 ^ n + 256 ^ n * (v / 256 ^ n % 256) := Nat.mod_mul
    rw [show (256 : Nat) ^ (n + 1) = 256 ^ n * 256 from pow_succ 256 n, h, Nat.mul_comm, Nat.add_comm]

theorem byteSlice_eq (b : Bytes) (i n : Nat) : byteSlice b i (i + n) = (b.drop i).take n := by
  simp [byteSlice]

theorem rdBe_eq (b : Bytes) (off n : Nat) : rdBe b off n = beValue ((b.drop off).take n) := by
  simp [rdBe, byteSlice]

theorem rdBe_lt (b : Bytes) (off n : Nat) : rdBe b off n < 256 ^ n := by
  rw [rdBe_eq]
  exact lt_of_lt_of_le (beValue_lt _) (Nat.pow_le_pow_right (by omega) (by simp))

/-- A field is read from the bytes it stands in, whatever follows them. -/
theorem rdBe_append_left {a b : Bytes} {off n : Nat} (h : off + n ≤ a.length) :
    rdBe (a ++ b) off n = rdBe a off n := by
  rw [rdBe_eq, rdBe_eq, List.drop_append_of_le_length (by omega),
    List.take_append_of_le_length (by simp; omega)]

/-! ## The reads of a decoder -/

/-- Everything `takeBytes` can answer. -/
theorem takeBytes_cases (k : Nat) (rest : Bytes) :
    (rest.length < k ∧ takeBytes k rest = .error .messageTooShort) ∨
      (k ≤ rest.length ∧ takeBytes k rest = .ok (rest.take k, rest.drop k)) := by
  unfold takeBytes
  split
  · exact .inl ⟨‹_›, rfl⟩
  · exact .inr ⟨by omega, rfl⟩

theorem takeBytes_short {k : Nat} {rest : Bytes} (h : rest.length < k) :
    takeBytes k rest = .error .messageTooShort := if_pos h

theorem takeBytes_of_le {k : Nat} {rest : Bytes} (h : k ≤ rest.length) :
    takeBytes k rest = .ok (rest.take k, rest.drop k) := if_neg (by omega)

theorem takeBytes_append {k : Nat} (a t : Bytes) (h : a.length = k) :
    takeBytes k (a ++ t) = .ok (a, t) := by
  rw [takeBytes_of_le (by simp [h])]
  simp [← h]

theorem takeBe_short {n : Nat} {rest : Bytes} (h : rest.length < n) :
    takeBe n rest = .error .messageTooShort := by
  simp [takeBe, takeBytes_short h]

theorem takeBe_of_le {n : Nat} {rest : Bytes} (h : n ≤ rest.length) :
    takeBe n rest = .ok (beValue (rest.take n), rest.drop n) := by
  simp [takeBe, takeBytes_of_le h]

theorem takeBe_append (n v : Nat) (t : Bytes) :
    takeBe n (beBytes n v ++ t) = .ok (v % 256 ^ n, t) := by
  simp [takeBe, takeBytes_append _ t (beBytes_length n v), beValue_beBytes]

/-! ## How a command ends -/

theorem returns_eq (r : Option Result) (s : State) : returns r s = .next (s.setAnswer ⟨.ok, r⟩) := rfl

theorem raises_eq (e : ErrorCode) (s : State) :
    raises e s = .next (s.setAnswer ⟨.error e, none⟩) := rfl

/-- The answer of a codec command's computation (R49, R242). -/
def answerOf {α : Type} (toResult : α → Result) (x : Except ErrorCode α) : Answer :=
  match x with
  | .ok v => ⟨.ok, some (toResult v)⟩
  | .error e => ⟨.error e, none⟩

/-- A codec command always answers, and writes nothing but its answer. -/
theorem answers_eq {α : Type} (f : α → Result) (x : Except ErrorCode α) (s : State) :
    answers f x s = .next (s.setAnswer (answerOf f x)) := by
  cases x <;> rfl

/-- A codec command's answer has a result just when its status is `OK`. -/
theorem answerOf_cases {α : Type} (f : α → Result) (x : Except ErrorCode α) :
    (∃ v, x = .ok v ∧ answerOf f x = ⟨.ok, some (f v)⟩) ∨
      (∃ e, x = .error e ∧ answerOf f x = ⟨.error e, none⟩) := by
  cases x with
  | ok v => exact .inl ⟨v, rfl, rfl⟩
  | error e => exact .inr ⟨e, rfl, rfl⟩

end Sys2Proof.Machine
end

