-- ==== Sys2Proof/Laws/Codec.lean ====
section
/-!
SUPPORT. What the codecs' shared functions compute: the fixed-width integers, fields at an offset, the
entries of a Peers payload, the header and the frame.
-/

namespace Sys2Proof.Machine

/-! ## Fixed-width integers -/

theorem be8Bits_eq (v : Byte) : be8Bits v = [v] := by simp [be8Bits, beBytes]

theorem be32Bits_length (v : U32) : (be32Bits v).length = 4 := beBytes_length _ _

theorem be64Bits_length (v : U64) : (be64Bits v).length = 8 := beBytes_length _ _

theorem beValue_be32Bits (v : U32) : beValue (be32Bits v) = v.toNat := by
  rw [be32Bits, beValue_beBytes]
  exact Nat.mod_eq_of_lt v.isLt

theorem beValue_be64Bits (v : U64) : beValue (be64Bits v) = v.toNat := by
  rw [be64Bits, beValue_beBytes]
  exact Nat.mod_eq_of_lt v.isLt

/-- `be_n` keeps only the low `8n` bits of what it is given (R100). -/
theorem beBytes_add_mul (n k v : Nat) : beBytes n (k * 256 ^ n + v) = beBytes n v := by
  induction n generalizing k v with
  | zero => rfl
  | succ n ih =>
    rw [beBytes, beBytes]
    congr 1
    · apply BitVec.eq_of_toNat_eq
      rw [BitVec.toNat_ofNat, BitVec.toNat_ofNat, pow_succ,
        show k * (256 ^ n * 256) + v = 256 ^ n * (k * 256) + v by ring,
        Nat.mul_add_div (by positivity)]
      omega
    · rw [pow_succ, show k * (256 ^ n * 256) + v = k * 256 * 256 ^ n + v by ring, ih]

/-- `rd_be` is injective: its bytes can be written back (R108). -/
theorem beBytes_beValue (b : Bytes) : beBytes b.length (beValue b) = b := by
  induction b with
  | nil => rfl
  | cons x b ih =>
    rw [List.length_cons, beBytes, beValue_cons, beBytes_add_mul, ih]
    congr 1
    have hx := x.isLt
    apply BitVec.eq_of_toNat_eq
    rw [BitVec.toNat_ofNat, Nat.mul_comm, Nat.mul_add_div (by positivity),
      Nat.div_eq_of_lt (beValue_lt b)]
    omega

/-! ## Fields at an offset -/

/-- A u32 written after `n` bytes is read back at offset `n`, whatever follows it. -/
theorem rdBe_at_be32Bits {a : Bytes} {n : Nat} (v : U32) (t : Bytes) (h : a.length = n) :
    rdBe (a ++ (be32Bits v ++ t)) n 4 = v.toNat := by
  have hl := be32Bits_length v
  rw [rdBe_eq, ← h, List.drop_append_of_le_length (le_refl _), List.drop_length, List.nil_append,
    List.take_append_of_le_length (by omega), List.take_of_length_le (by omega), beValue_be32Bits]

theorem u32At_be32Bits {a : Bytes} {n : Nat} (v : U32) (t : Bytes) (h : a.length = n) :
    u32At (a ++ (be32Bits v ++ t)) n = v := by
  rw [u32At, rdBe_at_be32Bits v t h]
  simp

/-- A one-byte field, as the integer a decoder reads. -/
theorem beValue_at_one {b : Bytes} {i : Nat} (h : i < b.length) :
    beValue ((b.drop i).take 1) = (byteAt b i).toNat := by
  have e : (b.drop i).take 1 = [byteAt b i] := by
    rw [byteAt, List.getD_eq_getElem _ _ h, List.drop_eq_getElem_cons h]
    rfl
  rw [e]
  simp [beValue]

/-! ## The Peers payload -/

/-- Entries that all have 4-byte addresses are written one after another (R172). -/
theorem encodeEntries_ok {ps : List Peer} (h : ∀ a ∈ ps, a.ip.length = 4) :
    encodeEntries ps = .ok (ps.flatMap fun a => a.ip ++ be32Bits a.port) := by
  induction ps with
  | nil => rfl
  | cons a ps ih =>
    have ha : a.ip.length = 4 := h a (by simp)
    have hps := ih fun x hx => h x (by simp [hx])
    simp [encodeEntries, encodeAddress, Config.addr4Len, ha, hps]

/-- Any entry that has not raises `UnsupportedAddress` (R172). -/
theorem encodeEntries_error {ps : List Peer} (h : ∃ a ∈ ps, a.ip.length ≠ 4) :
    encodeEntries ps = .error .unsupportedAddress := by
  induction ps with
  | nil => simp at h
  | cons a ps ih =>
    by_cases ha : a.ip.length = 4
    · have hps : ∃ a ∈ ps, a.ip.length ≠ 4 := by
        obtain ⟨x, hx, hx2⟩ := h
        rcases List.mem_cons.mp hx with rfl | hx
        · exact absurd ha hx2
        · exact ⟨x, hx, hx2⟩
      simp [encodeEntries, encodeAddress, Config.addr4Len, ha, ih hps]
    · simp [encodeEntries, encodeAddress, Config.addr4Len, ha]

theorem entriesAt_length (n : Nat) (b : Bytes) : (entriesAt n b).length = n := by
  induction n generalizing b with
  | zero => rfl
  | succ n ih => simp [entriesAt, ih]

/-- Entry `i` stands `8i` bytes in (R66, R173). -/
theorem entriesAt_getElem? {n i : Nat} (b : Bytes) (h : i < n) :
    (entriesAt n b)[i]? = some (peerAt (b.drop (8 * i))) := by
  induction n generalizing b i with
  | zero => omega
  | succ n ih =>
    cases i with
    | zero => simp [entriesAt]
    | succ i =>
      simp only [entriesAt, List.getElem?_cons_succ]
      rw [ih _ (by omega), List.drop_drop]
      congr 3
      omega

/-- Everything `decodePeers` can answer (R173). -/
theorem decodePeers_cases (b : Bytes) :
    (b.length < 4 ∧ decodePeers b = .error .messageTooShort) ∨
    (4 ≤ b.length ∧ b.length < 4 + 8 * rdBe b 0 4 ∧ decodePeers b = .error .messageTooShort) ∨
    (4 ≤ b.length ∧ 4 + 8 * rdBe b 0 4 ≤ b.length ∧
      decodePeers b = .ok (entriesAt (rdBe b 0 4) (b.drop 4))) := by
  unfold decodePeers
  dsimp only
  split
  · exact .inl ⟨‹_›, rfl⟩
  · split
    · exact .inr (.inl ⟨by omega, ‹_›, rfl⟩)
    · exact .inr (.inr ⟨by omega, by omega, rfl⟩)

/-! ## The header and the frame -/

/-- Everything `decodeHeader` can answer (R131). -/
theorem decodeHeader_cases (b : Bytes) :
    (b.length < 13 ∧ decodeHeader b = .error .messageTooShort) ∨
    (13 ≤ b.length ∧ rdBe b 9 4 = 0 ∧ decodeHeader b = .ok (headerAt b none, 13)) ∨
    (13 ≤ b.length ∧ 0 < rdBe b 9 4 ∧ b.length < 17 ∧ decodeHeader b = .error .messageTooShort) ∨
    (17 ≤ b.length ∧ 0 < rdBe b 9 4 ∧ decodeHeader b = .ok (headerAt b (some (quadAt b 13)), 17)) := by
  unfold decodeHeader
  split
  · exact .inl ⟨‹_›, rfl⟩
  · split
    · split
      · exact .inr (.inr (.inl ⟨by omega, ‹_›, ‹_›, rfl⟩))
      · exact .inr (.inr (.inr ⟨by omega, ‹_›, rfl⟩))
    · exact .inr (.inl ⟨by omega, by omega, rfl⟩)

/-- From 17 bytes on, `MSG_DEC` is the header and the table's entry on what follows it (R141, R142). -/
theorem decodeMessage_of_le {b : Bytes} (h : 17 ≤ b.length) :
    decodeMessage b =
      match dispatch (byteAt b 8) (b.drop (if rdBe b 9 4 = 0 then 13 else 17)) with
      | .error e => .error e
      | .ok p => .ok ⟨headerAt b (if rdBe b 9 4 = 0 then none else some (quadAt b 13)), p⟩ := by
  rw [decodeMessage, if_neg (by omega), if_neg (by omega)]
  rcases decodeHeader_cases b with ⟨hb, _⟩ | ⟨_, h0, e⟩ | ⟨_, _, hb, _⟩ | ⟨_, h0, e⟩
  · omega
  · rw [e]
    simp only [h0, if_true]
    rfl
  · omega
  · rw [e]
    simp only [Nat.ne_of_gt h0, if_false]
    rfl

/-- Everything the payload decoder table can answer (R142). -/
theorem dispatch_cases (cid : Byte) (rest : Bytes) :
    (cid = 0x02 ∧ ∃ ps, decodePeers rest = .ok ps ∧ dispatch cid rest = .ok (.peers ps)) ∨
    (cid = 0x02 ∧ ∃ e, decodePeers rest = .error e ∧ dispatch cid rest = .error e) ∨
    (cid ≠ 0x02 ∧ rest = [] ∧ dispatch cid rest = .ok .none) ∨
    (cid ≠ 0x02 ∧ rest ≠ [] ∧ dispatch cid rest = .ok (.opaqueBytes rest)) := by
  unfold dispatch
  by_cases hc : cid = 0x02
  · rw [if_pos hc]
    cases hd : decodePeers rest with
    | ok ps => exact .inl ⟨hc, ps, rfl, rfl⟩
    | error e => exact .inr (.inl ⟨hc, e, rfl, rfl⟩)
  · rw [if_neg hc]
    by_cases hr : rest = []
    · exact .inr (.inr (.inl ⟨hc, hr, by simp [hr]⟩))
    · exact .inr (.inr (.inr ⟨hc, hr, by simp [hr]⟩))

/-- A header `MSG_ENC` builds is well-formed, so encoding it cannot fail (R140). -/
theorem messageHeader_wellFormed (cid : Byte) {p : Bytes} (h : p.length ≤ 2 ^ 32 - 14) :
    (messageHeader cid p).wellFormed = true := by
  by_cases h0 : p.length = 0
  · simp [messageHeader, Header.wellFormed, h0]
  · have hm : p.length % 4294967296 = p.length := Nat.mod_eq_of_lt (by omega)
    have h1 : p ≠ [] := by
      intro hc
      simp [hc] at h0
    simp [messageHeader, Header.wellFormed, h1, hm]
    omega

end Sys2Proof.Machine
end

