-- ==== Sys2Proof/Laws/State.lean ====
section
/-!
SUPPORT. One lemma per field per update of State, each true by rfl, so that no proof unfolds a record
update.
-/

namespace Sys2Proof.Machine

@[simp] theorem setAnswer_rxMode (a : Answer) (s : State) : (s.setAnswer a).rxMode = s.rxMode := rfl
@[simp] theorem setAnswer_buf (a : Answer) (s : State) : (s.setAnswer a).buf = s.buf := rfl
@[simp] theorem setAnswer_target (a : Answer) (s : State) : (s.setAnswer a).target = s.target := rfl
@[simp] theorem setAnswer_fault (a : Answer) (s : State) : (s.setAnswer a).fault = s.fault := rfl
@[simp] theorem setAnswer_params (a : Answer) (s : State) : (s.setAnswer a).params = s.params := rfl
@[simp] theorem setAnswer_pending (a : Answer) (s : State) : (s.setAnswer a).pending = s.pending := rfl
@[simp] theorem setAnswer_answer (a : Answer) (s : State) : (s.setAnswer a).answer = some a := rfl

@[simp] theorem bufAppend_rxMode (c : Bytes) (s : State) : (bufAppend c s).rxMode = s.rxMode := rfl
@[simp] theorem bufAppend_buf (c : Bytes) (s : State) : (bufAppend c s).buf = s.buf ++ c := rfl
@[simp] theorem bufAppend_target (c : Bytes) (s : State) : (bufAppend c s).target = s.target := rfl
@[simp] theorem bufAppend_fault (c : Bytes) (s : State) : (bufAppend c s).fault = s.fault := rfl
@[simp] theorem bufAppend_params (c : Bytes) (s : State) : (bufAppend c s).params = s.params := rfl
@[simp] theorem bufAppend_pending (c : Bytes) (s : State) : (bufAppend c s).pending = s.pending := rfl
@[simp] theorem bufAppend_answer (c : Bytes) (s : State) : (bufAppend c s).answer = s.answer := rfl

@[simp] theorem bufDrop_rxMode (n : Nat) (s : State) : (bufDrop n s).rxMode = s.rxMode := rfl
@[simp] theorem bufDrop_buf (n : Nat) (s : State) : (bufDrop n s).buf = s.buf.drop n := rfl
@[simp] theorem bufDrop_target (n : Nat) (s : State) : (bufDrop n s).target = s.target := rfl
@[simp] theorem bufDrop_fault (n : Nat) (s : State) : (bufDrop n s).fault = s.fault := rfl
@[simp] theorem bufDrop_params (n : Nat) (s : State) : (bufDrop n s).params = s.params := rfl
@[simp] theorem bufDrop_pending (n : Nat) (s : State) : (bufDrop n s).pending = s.pending := rfl
@[simp] theorem bufDrop_answer (n : Nat) (s : State) : (bufDrop n s).answer = s.answer := rfl

@[simp] theorem bufClear_rxMode (s : State) : (bufClear s).rxMode = s.rxMode := rfl
@[simp] theorem bufClear_buf (s : State) : (bufClear s).buf = [] := rfl
@[simp] theorem bufClear_target (s : State) : (bufClear s).target = s.target := rfl
@[simp] theorem bufClear_fault (s : State) : (bufClear s).fault = s.fault := rfl
@[simp] theorem bufClear_params (s : State) : (bufClear s).params = s.params := rfl
@[simp] theorem bufClear_pending (s : State) : (bufClear s).pending = s.pending := rfl
@[simp] theorem bufClear_answer (s : State) : (bufClear s).answer = s.answer := rfl

@[simp] theorem sliceOff_rxMode (s : State) : (sliceOff s).rxMode = s.rxMode := rfl
@[simp] theorem sliceOff_buf (s : State) : (sliceOff s).buf = s.buf.drop s.target.toNat := rfl
@[simp] theorem sliceOff_target (s : State) : (sliceOff s).target = 0 := rfl
@[simp] theorem sliceOff_fault (s : State) : (sliceOff s).fault = s.fault := rfl
@[simp] theorem sliceOff_params (s : State) : (sliceOff s).params = s.params := rfl
@[simp] theorem sliceOff_pending (s : State) : (sliceOff s).pending = s.pending := rfl
@[simp] theorem sliceOff_answer (s : State) : (sliceOff s).answer = s.answer := rfl

@[simp] theorem clearConnection_rxMode (s : State) : (clearConnection s).rxMode = .handshake := rfl
@[simp] theorem clearConnection_buf (s : State) : (clearConnection s).buf = [] := rfl
@[simp] theorem clearConnection_target (s : State) : (clearConnection s).target = 0 := rfl
@[simp] theorem clearConnection_fault (s : State) : (clearConnection s).fault = false := rfl
@[simp] theorem clearConnection_params (s : State) : (clearConnection s).params = s.params := rfl
@[simp] theorem clearConnection_pending (s : State) : (clearConnection s).pending = s.pending := rfl
@[simp] theorem clearConnection_answer (s : State) : (clearConnection s).answer = s.answer := rfl

@[simp] theorem readPrefix_rxMode (s : State) : (readPrefix s).rxMode = s.rxMode := by
  unfold readPrefix; split <;> rfl
@[simp] theorem readPrefix_buf (s : State) : (readPrefix s).buf = s.buf := by
  unfold readPrefix; split <;> rfl
@[simp] theorem readPrefix_fault (s : State) : (readPrefix s).fault = s.fault := by
  unfold readPrefix; split <;> rfl
@[simp] theorem readPrefix_params (s : State) : (readPrefix s).params = s.params := by
  unfold readPrefix; split <;> rfl
@[simp] theorem readPrefix_pending (s : State) : (readPrefix s).pending = s.pending := by
  unfold readPrefix; split <;> rfl
@[simp] theorem readPrefix_answer (s : State) : (readPrefix s).answer = s.answer := by
  unfold readPrefix; split <;> rfl

theorem readPrefix_of_set {s : State} (h : s.target ≠ 0) : readPrefix s = s := if_neg h

theorem readPrefix_of_unset {s : State} (h : s.target = 0) :
    readPrefix s = { s with target := BitVec.ofNat 33 (frameLength s.buf) } := if_pos h

end Sys2Proof.Machine
end

