-- ==== Sys2Proof/Laws/Reassembler.lean ====
section
/-!
SUPPORT. What one pass of the reassembler's loop can do (R191), that its fuel is always enough (log entry
8), and what it leaves alone.
-/

namespace Sys2Proof.Machine

/-- Everything one pass of the loop can do: wait for the length prefix, fault, wait for the frame, or
slice one frame and go on. -/
theorem rxLoop_cases (fuel : Nat) (s : State) :
    (s.target = 0 ∧ s.buf.length < 4 ∧ rxLoop (fuel + 1) s = (s, [])) ∨
    (s.target = 0 ∧ 4 ≤ s.buf.length ∧
      exceedsMaxFrame s.params (readPrefix s).target.toNat = true ∧
      rxLoop (fuel + 1) s = ({ readPrefix s with fault := true },
        [.fault (.error .frameTooLarge) (readPrefix s).target])) ∨
    ((s.target = 0 → 4 ≤ s.buf.length ∧
        exceedsMaxFrame s.params (readPrefix s).target.toNat = false) ∧
      s.buf.length < (readPrefix s).target.toNat ∧ rxLoop (fuel + 1) s = (readPrefix s, [])) ∨
    ((s.target = 0 → 4 ≤ s.buf.length ∧
        exceedsMaxFrame s.params (readPrefix s).target.toNat = false) ∧
      (readPrefix s).target.toNat ≤ s.buf.length ∧
      rxLoop (fuel + 1) s = ((rxLoop fuel (sliceOff (readPrefix s))).1,
        frameEvent (bufSlice (readPrefix s).target.toNat (readPrefix s)) ::
          (rxLoop fuel (sliceOff (readPrefix s))).2)) := by
  have hp : (readPrefix s).params = s.params := readPrefix_params s
  have hb : (readPrefix s).buf = s.buf := readPrefix_buf s
  rw [rxLoop]
  by_cases h1 : s.target = 0 ∧ s.buf.length < 4
  · exact .inl ⟨h1.1, h1.2, if_pos h1⟩
  rw [if_neg h1]
  have h4 : s.target = 0 → 4 ≤ s.buf.length := fun h => by
    by_contra hc
    exact h1 ⟨h, by omega⟩
  simp only [hp, hb]
  by_cases h2 : s.target = 0 ∧ exceedsMaxFrame s.params (readPrefix s).target.toNat = true
  · exact .inr (.inl ⟨h2.1, h4 h2.1, h2.2, if_pos h2⟩)
  rw [if_neg h2]
  have hx : s.target = 0 → 4 ≤ s.buf.length ∧
      exceedsMaxFrame s.params (readPrefix s).target.toNat = false :=
    fun h => ⟨h4 h, by simpa using fun hc => h2 ⟨h, hc⟩⟩
  by_cases h3 : s.buf.length < (readPrefix s).target.toNat
  · exact .inr (.inr (.inl ⟨hx, h3, if_pos h3⟩))
  · exact .inr (.inr (.inr ⟨hx, by omega, if_neg h3⟩))

/-- The first 4 bytes read as a length: the sum stands on 33 bits and never wraps (R23, R193). -/
theorem frameLength_lt (b : Bytes) : frameLength b < 2 ^ 33 := by
  have h := rdBe_lt b 0 4
  unfold frameLength
  omega

/-- A `TARGET` just read is the frame's length (R193). -/
theorem readPrefix_target_of_unset {s : State} (h : s.target = 0) :
    (readPrefix s).target.toNat = frameLength s.buf := by
  rw [readPrefix_of_unset h, BitVec.toNat_ofNat, Nat.mod_eq_of_lt (frameLength_lt _)]

/-- After `readPrefix`, `TARGET` is set. -/
theorem readPrefix_target_pos (s : State) : 0 < (readPrefix s).target.toNat := by
  by_cases h : s.target = 0
  · rw [readPrefix_target_of_unset h]; unfold frameLength; omega
  · rw [readPrefix_of_set h]
    exact Nat.pos_of_ne_zero fun hc => h (BitVec.eq_of_toNat_eq (by simpa using hc))

/-- `len(BUF) + 1` passes are enough: more fuel changes nothing (log entry 8). -/
theorem rxLoop_fuel {m n : Nat} (s : State) (hm : s.buf.length < m) (hn : s.buf.length < n) :
    rxLoop m s = rxLoop n s := by
  induction m generalizing n s with
  | zero => omega
  | succ m ih =>
    obtain _ | n := n
    · omega
    have key : rxLoop m (sliceOff (readPrefix s)) = rxLoop n (sliceOff (readPrefix s)) ∨
        s.buf.length < (readPrefix s).target.toNat := by
      by_cases hl : s.buf.length < (readPrefix s).target.toNat
      · exact .inr hl
      · have := readPrefix_target_pos s
        exact .inl (ih _ (by simp; omega) (by simp; omega))
    rw [rxLoop, rxLoop]
    split
    · rfl
    · simp only [readPrefix_params, readPrefix_buf]
      split
      · rfl
      · split
        · rfl
        · rcases key with h | h
          · rw [h]
          · exact absurd h ‹_›

/-- The loop writes `BUF`, `TARGET` and `FAULT` and nothing else. -/
theorem rxLoop_frame (fuel : Nat) (s : State) :
    (rxLoop fuel s).1.rxMode = s.rxMode ∧ (rxLoop fuel s).1.params = s.params ∧
      (rxLoop fuel s).1.pending = s.pending ∧ (rxLoop fuel s).1.answer = s.answer := by
  induction fuel generalizing s with
  | zero => exact ⟨rfl, rfl, rfl, rfl⟩
  | succ fuel ih =>
    rcases rxLoop_cases fuel s with ⟨_, _, h⟩ | ⟨_, _, _, h⟩ | ⟨_, _, h⟩ | ⟨_, _, h⟩
    · rw [h]; exact ⟨rfl, rfl, rfl, rfl⟩
    · rw [h]; simp
    · rw [h]; simp
    · rw [h]; simpa using ih (sliceOff (readPrefix s))

/-- A fault event of the loop has the status `FrameTooLarge` and no other (R35, R195). -/
theorem rxLoop_fault_status {fuel : Nat} {s : State} {st : Status} {n : BitVec 33}
    (h : Event.fault st n ∈ (rxLoop fuel s).2) : st = .error .frameTooLarge := by
  induction fuel generalizing s with
  | zero => simp [rxLoop] at h
  | succ fuel ih =>
    rcases rxLoop_cases fuel s with ⟨_, _, e⟩ | ⟨_, _, _, e⟩ | ⟨_, _, e⟩ | ⟨_, _, e⟩ <;> rw [e] at h
    · simp at h
    · simp only [List.mem_singleton, Event.fault.injEq] at h
      exact h.1
    · simp at h
    · simp only [frameEvent, List.mem_cons, reduceCtorEq, false_or] at h
      exact ih h

/-- Everything `RX_CHUNK` can do (R191): refuse when faulted, do nothing with an empty chunk, take the
handshake, or drain the frames. -/
theorem execRxChunk_cases (c : Bytes) (s : State) :
    (s.fault = true ∧ execRxChunk c s = .next (s.setAnswer ⟨.error .frameTooLarge, none⟩)) ∨
    (s.fault = false ∧ c = [] ∧ execRxChunk c s = .next (s.setAnswer ⟨.ok, some (.events [])⟩)) ∨
    (s.fault = false ∧ c ≠ [] ∧ s.rxMode = .handshake ∧
      execRxChunk c s = .next (State.setAnswer ⟨.ok, some (.events [handshakeEvent c])⟩
        { s with rxMode := .framed })) ∨
    (s.fault = false ∧ c ≠ [] ∧ s.rxMode = .framed ∧
      execRxChunk c s = .next (State.setAnswer ⟨.ok, some (.events (framedStep c s).2)⟩
        (framedStep c s).1)) := by
  unfold execRxChunk
  by_cases hf : s.fault = true
  · exact .inl ⟨hf, by simp [hf, raises_eq]⟩
  · have hf' : s.fault = false := by simpa using hf
    by_cases hc : c = []
    · exact .inr (.inl ⟨hf', hc, by simp [hf', hc, returns_eq]⟩)
    · rcases hm : s.rxMode with _ | _
      · exact .inr (.inr (.inl ⟨hf', hc, rfl, by
          simp [hf', hc, returns_eq, handshakeStep]⟩))
      · exact .inr (.inr (.inr ⟨hf', hc, rfl, by simp [hf', hc, returns_eq]⟩))

end Sys2Proof.Machine
end

