-- ==== Sys2Proof/Machine/Listing.lean ====
section
/-!
DEFINITION. The written form of commands and answers (spec/30_encoding.md rule R75): a mnemonic and its
operands, records with the field names of spec/10_state.md, and `-> STATUS[, value]`. Where R75 leaves a
choice the model takes one (DESIGN CHOICE, log entry 15): integers in decimal but for a content-id, byte
strings in hex without spaces.
-/

namespace Sys2Proof.Machine

/-- A hexadecimal digit. -/
def hexDigit (n : Nat) : Char :=
  if n < 10 then Char.ofNat (48 + n) else Char.ofNat (87 + n)

/-- A byte as two hexadecimal digits. -/
def byteListing (b : Byte) : String :=
  String.ofList [hexDigit (b.toNat / 16), hexDigit (b.toNat % 16)]

/-- An integer in decimal. -/
def natListing (n : Nat) : String := String.ofList (Nat.toDigits 10 n)

/-- A content-id, in hex with `0x`. -/
def contentIdListing (cid : Byte) : String := "0x" ++ byteListing cid

/-- A byte string, hex in `x"..."`. -/
def bytesListing (b : Bytes) : String := "x\"" ++ String.join (b.map byteListing) ++ "\""

/-- A record, its fields already written. -/
def recordListing (fields : List String) : String :=
  (Char.ofNat 123).toString ++ String.intercalate ", " fields ++ (Char.ofNat 125).toString

/-- A list, its entries already written. -/
def listListing (entries : List String) : String := "[" ++ String.intercalate ", " entries ++ "]"

/-- An option. -/
def optionListing {α : Type} (f : α → String) : Option α → String
  | none => "None"
  | some x => "Some(" ++ f x ++ ")"

def declAddressListing (a : DeclAddress) : String :=
  recordListing ["ip: " ++ bytesListing a.ip, "port: " ++ natListing a.port.toNat]

def peerListing (a : Peer) : String :=
  recordListing ["ip: " ++ bytesListing a.ip, "port: " ++ natListing a.port.toNat]

def versionListing (v : Version) : String :=
  recordListing ["major: " ++ natListing v.major.toNat, "minor: " ++ natListing v.minor.toNat,
    "patch: " ++ natListing v.patch.toNat]

def handshakeListing (h : Handshake) : String :=
  recordListing ["appName: " ++ bytesListing h.appName, "version: " ++ versionListing h.version,
    "nodeName: " ++ bytesListing h.nodeName, "nonce: " ++ natListing h.nonce.toNat,
    "declAddress: " ++ optionListing declAddressListing h.declAddress,
    "timestamp: " ++ natListing h.timestamp.toNat]

def quadListing (q : Quad) : String := bytesListing [q.b0, q.b1, q.b2, q.b3]

def headerListing (h : Header) : String :=
  recordListing ["packetLength: " ++ natListing h.packetLength.toNat,
    "magic: " ++ quadListing h.magic, "contentId: " ++ contentIdListing h.contentId,
    "payloadLength: " ++ natListing h.payloadLength.toNat,
    "checksum: " ++ optionListing quadListing h.checksum]

def payloadListing : Payload → String
  | .none => "None"
  | .peers ps => "Peers(" ++ listListing (ps.map peerListing) ++ ")"
  | .opaqueBytes b => "Opaque(" ++ bytesListing b ++ ")"

def messageListing (m : Message) : String :=
  recordListing ["header: " ++ headerListing m.header, "payload: " ++ payloadListing m.payload]

/-- The names of R240. -/
def statusListing : Status → String
  | .ok => "OK"
  | .error .messageTooShort => "MessageTooShort"
  | .error .invalidAddressLength => "InvalidAddressLength"
  | .error .invalidAddress => "InvalidAddress"
  | .error .invalidPort => "InvalidPort"
  | .error .nameTooLong => "NameTooLong"
  | .error .unsupportedAddress => "UnsupportedAddress"
  | .error .lengthOverflow => "LengthOverflow"
  | .error .frameTooLarge => "FrameTooLarge"
  | .error .illegalCommand => "IllegalCommand"
  | .error .invalidRecord => "InvalidRecord"

def eventListing : Event → String
  | .handshake st h n =>
    "HsEvent(" ++ statusListing st ++ ", " ++ optionListing handshakeListing h ++ ", "
      ++ natListing n ++ ")"
  | .frame f st m =>
    "FrameEvent(" ++ bytesListing f ++ ", " ++ statusListing st ++ ", "
      ++ optionListing messageListing m ++ ")"
  | .fault st n => "FaultEvent(" ++ statusListing st ++ ", " ++ natListing n.toNat ++ ")"

def resultListing : Result → String
  | .bytes b => bytesListing b
  | .u8 v => natListing v.toNat
  | .u32 v => natListing v.toNat
  | .u64 v => natListing v.toNat
  | .peer a => peerListing a
  | .handshake h n => "(" ++ handshakeListing h ++ ", " ++ natListing n ++ ")"
  | .header h n => "(" ++ headerListing h ++ ", " ++ natListing n ++ ")"
  | .message m => messageListing m
  | .peers ps => listListing (ps.map peerListing)
  | .events es => listListing (es.map eventListing)
  | .payload p => payloadListing p

/-- `-> STATUS[, value]`. -/
def answerListing (a : Answer) : String :=
  match a.result with
  | none => "-> " ++ statusListing a.status
  | some r => "-> " ++ statusListing a.status ++ ", " ++ resultListing r

/-- The operands of an instruction, in the order of R72. -/
def operandListings : Instr → List String
  | .reset => []
  | .beEnc1 v => [natListing v.toNat]
  | .beEnc4 v => [natListing v.toNat]
  | .beEnc8 v => [natListing v.toNat]
  | .beDec1 b => [bytesListing b]
  | .beDec4 b => [bytesListing b]
  | .beDec8 b => [bytesListing b]
  | .cksum b => [bytesListing b]
  | .addrEnc a => [peerListing a]
  | .addrDec b => [bytesListing b]
  | .hsEnc h => [handshakeListing h]
  | .hsDec b => [bytesListing b]
  | .hdrEnc h => [headerListing h]
  | .hdrDec b => [bytesListing b]
  | .msgEnc cid p => [contentIdListing cid, bytesListing p]
  | .msgDec b => [bytesListing b]
  | .peersEnc ps => [listListing (ps.map peerListing)]
  | .peersDec b => [bytesListing b]
  | .rxChunk c => [bytesListing c]
  | .cidGetPeers b => [bytesListing b]
  | .cidPeers b => [bytesListing b]
  | .cidSignatures b => [bytesListing b]
  | .cidGetBlock b => [bytesListing b]
  | .cidBlock b => [bytesListing b]
  | .cidScore b => [bytesListing b]
  | .cidTransaction b => [bytesListing b]
  | .cidInvMicroblock b => [bytesListing b]
  | .cidMicroblockRequest b => [bytesListing b]
  | .cidMicroblock b => [bytesListing b]
  | .cidCheckpoint b => [bytesListing b]

/-- `MNEMONIC [operand, ...]`. -/
def instrListing (i : Instr) : String :=
  match operandListings i with
  | [] => i.mnemonic
  | os => i.mnemonic ++ " " ++ String.intercalate ", " os

end Sys2Proof.Machine
end

