-- ==== Sys2Proof/Tests/Slice0.lean ====
section
/-!
SUPPORT. The model's own tests: ill-formed terms that WellFormed refuses, command words written out from
the spec's encoding, vectors of spec/95_test_vectors.md, and one witness for every statement that has
hypotheses.
-/

namespace Sys2Proof.Tests

open Sys2Proof Sys2Proof.Machine

/-! ## Helpers -/

/-- The next state of an outcome; every outcome of this machine is one. -/
def after (o : Host.Outcome State Fault Refusal) : State :=
  match o with
  | .next s => s
  | .fault f => nomatch f
  | .refused _ => State.reset

/-- What an instruction answers from reset. -/
def answerAt (i : Instr) (s : State) : Option Answer := (after (exec i s)).answer

/-- A framed block with the given bound, buffer and target. -/
def framed (m : Option Nat) (buf : Bytes) (target : BitVec 33) : State :=
  { State.powerOn ⟨m⟩ with rxMode := .framed, buf := buf, target := target }

/-- The four items of the architectural state, as spec/95_test_vectors.md lists them. -/
def view (s : State) : RxMode × Bytes × BitVec 33 × Bool := (s.rxMode, s.buf, s.target, s.fault)

/-- What `RX_CHUNK` answers. -/
def eventsOf (o : Host.Outcome State Fault Refusal) : List Event :=
  match (after o).answer with
  | some ⟨.ok, some (.events es)⟩ => es
  | _ => []

def ok (r : Result) : Option Answer := some ⟨.ok, some r⟩
def failed (e : ErrorCode) : Option Answer := some ⟨.error e, none⟩

/-- Frame `A` of spec/95_test_vectors.md. -/
def frameA : Bytes := [0, 0, 0, 9, 0x12, 0x34, 0x56, 0x78, 1, 0, 0, 0, 0]
/-- Frame `B`. -/
def frameB : Bytes :=
  [0, 0, 0, 0x11, 0x12, 0x34, 0x56, 0x78, 2, 0, 0, 0, 4, 0x11, 0xda, 0x6d, 0x1f, 0, 0, 0, 0]
/-- `PEER1` and `PEER2`. -/
def peer1 : Peer := ⟨[0x7f, 0, 0, 1], 6863⟩
def peer2 : Peer := ⟨[0x0a, 0, 0, 2], 6868⟩
/-- `P2`. -/
def p2 : Bytes :=
  [0, 0, 0, 2, 0x7f, 0, 0, 1, 0, 0, 0x1a, 0xcf, 0x0a, 0, 0, 2, 0, 0, 0x1a, 0xd4]
/-- Frame `M2`. -/
def frameM2 : Bytes :=
  [0, 0, 0, 0x21, 0x12, 0x34, 0x56, 0x78, 2, 0, 0, 0, 0x14, 0x4f, 0xb5, 0xe7, 0xe2] ++ p2

def headerA : Header := ⟨9, ⟨0x12, 0x34, 0x56, 0x78⟩, 1, 0, none⟩
def headerB : Header := ⟨17, ⟨0x12, 0x34, 0x56, 0x78⟩, 2, 4, some ⟨0x11, 0xda, 0x6d, 0x1f⟩⟩
def eventA : Event := .frame frameA .ok (some ⟨headerA, .none⟩)
def eventB : Event := .frame frameB .ok (some ⟨headerB, .peers []⟩)

/-- The record of V5.2. -/
def hsdRecord : Handshake where
  appName := [0x77, 0x61, 0x76, 0x65, 0x73, 0x57]
  version := ⟨1, 1, 6⟩
  nodeName := [0x6e]
  nonce := 0x0102030405060708
  declAddress := some ⟨[0xc0, 0xa8, 1, 0x0a], 6868⟩
  timestamp := 1580547964928
/-- `HSD`. -/
def hsd : Bytes :=
  [6, 0x77, 0x61, 0x76, 0x65, 0x73, 0x57, 0, 0, 0, 1, 0, 0, 0, 1, 0, 0, 0, 6, 1, 0x6e,
   1, 2, 3, 4, 5, 6, 7, 8, 0, 0, 0, 8, 0xc0, 0xa8, 1, 0x0a, 0, 0, 0x1a, 0xd4,
   0, 0, 1, 0x70, 0, 0, 0, 0]
/-- `HSW`, the source's Handshake example (W1). -/
def hsw : Bytes :=
  [6, 0x77, 0x61, 0x76, 0x65, 0x73, 0x57, 0, 0, 0, 1, 0, 0, 0, 1, 0, 0, 0, 6,
   8, 0x6f, 0x62, 0x73, 0x65, 0x72, 0x76, 0x65, 0x72] ++ List.replicate 20 0
/-- The record of W1. -/
def hswRecord : Handshake where
  appName := [0x77, 0x61, 0x76, 0x65, 0x73, 0x57]
  version := ⟨1, 1, 6⟩
  nodeName := [0x6f, 0x62, 0x73, 0x65, 0x72, 0x76, 0x65, 0x72]
  nonce := 0
  declAddress := none
  timestamp := 0
/-- The minimal handshake of V5.1 with another declared address. -/
def bare (d : Option DeclAddress) : Handshake := ⟨[], ⟨0, 0, 0⟩, [], 0, d, 0⟩
/-- `PFX`: every field before declSize, all zero. -/
def pfx : Bytes := List.replicate 22 0

/-- `MSG_DEC` answers what its computation gives. -/
theorem msgDec_next {b : Bytes} {a : Answer} (s : State) (h : answerOf .message (decodeMessage b) = a) :
    exec (.msgDec b) s = .next { s with answer := some a } :=
  h ▸ answers_eq .message (decodeMessage b) s

/-! ## WellFormed refuses ill-formed terms -/

theorem wf_refuses_peer_of_three_bytes : (Instr.addrEnc ⟨[0x7f, 0, 0], 1⟩).wellFormed = false := by decide
theorem wf_refuses_port_65536 :
    (Instr.hsEnc (bare (some ⟨[0, 0, 0, 0], 65536⟩))).wellFormed = false := by decide
theorem wf_refuses_declared_ipv6 :
    (Instr.hsEnc (bare (some ⟨List.replicate 16 0, 1⟩))).wellFormed = false := by decide
theorem wf_refuses_appName_of_256 :
    (Instr.hsEnc { bare none with appName := List.replicate 256 0 }).wellFormed = false := by
  decide +kernel
theorem wf_refuses_nodeName_of_256 :
    (Instr.hsEnc { bare none with nodeName := List.replicate 256 0 }).wellFormed = false := by
  decide +kernel
theorem wf_refuses_missing_checksum :
    (Instr.hdrEnc { headerB with checksum := none }).wellFormed = false := by decide
theorem wf_refuses_unasked_checksum :
    (Instr.hdrEnc { headerA with checksum := some ⟨0, 0, 0, 0⟩ }).wellFormed = false := by decide
theorem wf_refuses_bad_peer_in_list :
    (Instr.peersEnc [peer1, ⟨List.replicate 16 0, 1⟩]).wellFormed = false := by decide
theorem wf_refuses_too_many_peers (ps : List Peer) (h : 2 ^ 32 ≤ ps.length) :
    (Instr.peersEnc ps).wellFormed = false := by
  simp [Instr.wellFormed]
  omega
theorem wf_refuses_oversize_payload (p : Bytes) (h : 2 ^ 32 - 13 ≤ p.length) :
    (Instr.msgEnc 2 p).wellFormed = false := by
  simp [Instr.wellFormed]
  omega
theorem wf_accepts_v5_2 : (Instr.hsEnc hsdRecord).wellFormed = true := by decide

/-! ## Decoding: the words of R72 and R70, bit by bit (unit, direction, reserved, width) -/

theorem decode_words_of_the_command_map (a : Operands) :
    decode ⟨.command, 0b00000001#8, a⟩ = .ok .reset ∧
    decode ⟨.command, 0b00010000#8, a⟩ = .ok (.beEnc1 a.u8) ∧
    decode ⟨.command, 0b00010001#8, a⟩ = .ok (.beEnc4 a.u32) ∧
    decode ⟨.command, 0b00010010#8, a⟩ = .ok (.beEnc8 a.u64) ∧
    decode ⟨.command, 0b00011000#8, a⟩ = .ok (.beDec1 a.bytes) ∧
    decode ⟨.command, 0b00011001#8, a⟩ = .ok (.beDec4 a.bytes) ∧
    decode ⟨.command, 0b00011010#8, a⟩ = .ok (.beDec8 a.bytes) ∧
    decode ⟨.command, 0b00100000#8, a⟩ = .ok (.cksum a.bytes) ∧
    decode ⟨.command, 0b00110000#8, a⟩ = .ok (.addrEnc a.peer) ∧
    decode ⟨.command, 0b00111000#8, a⟩ = .ok (.addrDec a.bytes) ∧
    decode ⟨.command, 0b01000000#8, a⟩ = .ok (.hsEnc a.handshake) ∧
    decode ⟨.command, 0b01001000#8, a⟩ = .ok (.hsDec a.bytes) ∧
    decode ⟨.command, 0b01010000#8, a⟩ = .ok (.hdrEnc a.header) ∧
    decode ⟨.command, 0b01011000#8, a⟩ = .ok (.hdrDec a.bytes) ∧
    decode ⟨.command, 0b01100000#8, a⟩ = .ok (.msgEnc a.u8 a.bytes) ∧
    decode ⟨.command, 0b01101000#8, a⟩ = .ok (.msgDec a.bytes) ∧
    decode ⟨.command, 0b01110000#8, a⟩ = .ok (.peersEnc a.peers) ∧
    decode ⟨.command, 0b01111000#8, a⟩ = .ok (.peersDec a.bytes) ∧
    decode ⟨.command, 0b10000000#8, a⟩ = .ok (.rxChunk a.bytes) := by
  simp [decode, decodeCommand, decodeSingle, decodePair, decodeInteger, opReserved, opUnit, opWidth, opDir]

theorem decode_words_of_the_content_id_map (a : Operands) :
    decode ⟨.contentId, 0b00000001#8, a⟩ = .ok (.cidGetPeers a.bytes) ∧
    decode ⟨.contentId, 0b00000010#8, a⟩ = .ok (.cidPeers a.bytes) ∧
    decode ⟨.contentId, 0b00010101#8, a⟩ = .ok (.cidSignatures a.bytes) ∧
    decode ⟨.contentId, 0b00010110#8, a⟩ = .ok (.cidGetBlock a.bytes) ∧
    decode ⟨.contentId, 0b00010111#8, a⟩ = .ok (.cidBlock a.bytes) ∧
    decode ⟨.contentId, 0b00011000#8, a⟩ = .ok (.cidScore a.bytes) ∧
    decode ⟨.contentId, 0b00011001#8, a⟩ = .ok (.cidTransaction a.bytes) ∧
    decode ⟨.contentId, 0b00011010#8, a⟩ = .ok (.cidInvMicroblock a.bytes) ∧
    decode ⟨.contentId, 0b00011011#8, a⟩ = .ok (.cidMicroblockRequest a.bytes) ∧
    decode ⟨.contentId, 0b00011100#8, a⟩ = .ok (.cidMicroblock a.bytes) ∧
    decode ⟨.contentId, 0b01100100#8, a⟩ = .ok (.cidCheckpoint a.bytes) := by
  simp [decode, decodeContentId]

/-- The illegal bytes of R221 and V9, each with the field that makes it so. -/
theorem decode_rejects_illegal_opcodes :
    decode ⟨.command, 0x00, Operands.zero⟩ = .error (.reservedWidth 0x00) ∧
    decode ⟨.command, 0x02, Operands.zero⟩ = .error (.reservedWidth 0x02) ∧
    decode ⟨.command, 0x09, Operands.zero⟩ = .error (.reservedDir 0x09) ∧
    decode ⟨.command, 0x13, Operands.zero⟩ = .error (.reservedWidth 0x13) ∧
    decode ⟨.command, 0x1B, Operands.zero⟩ = .error (.reservedWidth 0x1B) ∧
    decode ⟨.command, 0x1C, Operands.zero⟩ = .error (.reservedBit 0x1C) ∧
    decode ⟨.command, 0x21, Operands.zero⟩ = .error (.reservedWidth 0x21) ∧
    decode ⟨.command, 0x81, Operands.zero⟩ = .error (.reservedWidth 0x81) ∧
    decode ⟨.command, 0x90, Operands.zero⟩ = .error (.reservedUnit 0x90) ∧
    decode ⟨.command, 0xFF, Operands.zero⟩ = .error (.reservedBit 0xFF) := by
  decide

theorem decodeTableWord_reads_commands_first :
    decodeTableWord 8 0x01 = some .reset ∧ decodeTableWord 8 0x18 = some (.beDec1 []) ∧
    decodeTableWord 8 0x02 = some (.cidPeers []) ∧ decodeTableWord 8 0x1B = some (.cidMicroblockRequest []) ∧
    decodeTableWord 8 0x64 = some (.cidCheckpoint []) ∧ decodeTableWord 8 0x13 = none := by
  decide

/-- `withFetchWord` puts a word where the next step takes it (here 0x10, `BE_ENC1 0`). -/
theorem step_runs_the_fetched_word :
    step (State.reset.withFetchWord 8 0x10) =
      .next { State.reset with answer := ok (.bytes [0]) } := rfl

/-! ## Vectors of spec/95_test_vectors.md -/

/-- V1. -/
theorem vector_be_enc :
    answerAt (.beEnc1 255) State.reset = ok (.bytes [0xff]) ∧
    answerAt (.beEnc4 65536) State.reset = ok (.bytes [0, 1, 0, 0]) ∧
    answerAt (.beEnc8 0x0102030405060708) State.reset = ok (.bytes [1, 2, 3, 4, 5, 6, 7, 8]) := by
  decide
theorem vector_be_dec :
    answerAt (.beDec1 [0xff, 0]) State.reset = ok (.u8 255) ∧
    answerAt (.beDec4 [0, 0, 0, 0x11, 0x12]) State.reset = ok (.u32 17) ∧
    answerAt (.beDec8 [0, 0, 1, 0x70, 0, 0, 0, 0]) State.reset = ok (.u64 1580547964928) ∧
    answerAt (.beDec8 [0, 0, 1, 0x70, 0, 0, 0]) State.reset = failed .messageTooShort := by
  decide

/-- V2: with `H` opaque, the four bytes are the digest's first four. -/
theorem vector_cksum :
    answerAt (.cksum p2) State.reset =
      ok (.bytes [(Config.hash p2)[0], (Config.hash p2)[1], (Config.hash p2)[2], (Config.hash p2)[3]]) :=
  rfl
/-- RFC 7693's value for "abc" at 64 bytes begins `ba80a53f`; the start of the digest. -/
theorem vector_blake2b512_abc : (blake2b 64 [0x61, 0x62, 0x63]).take 4 = [0xba, 0x80, 0xa5, 0x3f] := by
  decide +kernel

/-- V3. -/
theorem vector_addr_enc :
    answerAt (.addrEnc peer1) State.reset = ok (.bytes [0x7f, 0, 0, 1, 0, 0, 0x1a, 0xcf]) ∧
    answerAt (.addrEnc ⟨[0x7f, 0, 0], 1⟩) State.reset = failed .unsupportedAddress := by decide
theorem vector_addr_dec :
    answerAt (.addrDec [0x0a, 0, 0, 2, 0, 0, 0x1a, 0xd4, 0xff]) State.reset = ok (.peer peer2) ∧
    answerAt (.addrDec [0x0a, 0, 0, 2, 0, 0, 0x1a]) State.reset = failed .messageTooShort := by decide

/-- V4. -/
theorem vector_peers_enc :
    answerAt (.peersEnc [peer1, peer2]) State.reset = ok (.bytes p2) ∧
    answerAt (.peersEnc [peer1, ⟨List.replicate 16 0, 1⟩]) State.reset = failed .unsupportedAddress := by
  decide
theorem vector_peers_dec :
    answerAt (.peersDec p2) State.reset = ok (.peers [peer1, peer2]) ∧
    answerAt (.peersDec [0xff, 0xff, 0xff, 0xff]) State.reset = failed .messageTooShort := by decide

/-- V5.2, and V5.3's order of tests. -/
theorem vector_hs_enc :
    answerAt (.hsEnc hsdRecord) State.reset = ok (.bytes hsd) ∧
    answerAt (.hsEnc (bare (some ⟨[0, 0, 0], 65536⟩))) State.reset = failed .unsupportedAddress := by
  decide +kernel
/-- V5.4: declSize 20 is accepted; the port is checked before the missing timestamp. -/
theorem vector_hs_dec :
    answerAt (.hsDec (pfx ++ [0, 0, 0, 0x14] ++ List.replicate 16 7 ++
        [0, 0, 0x1a, 0xd4, 0, 0, 0, 0, 0, 0, 0, 5])) State.reset =
      ok (.handshake { bare (some ⟨List.replicate 16 7, 6868⟩) with timestamp := 5 } 54) ∧
    answerAt (.hsDec (pfx ++ [0, 0, 0, 8, 1, 2, 3, 4, 0, 1, 0, 0])) State.reset =
      failed .invalidPort := by
  decide +kernel

/-- V6. -/
theorem vector_hdr_enc :
    answerAt (.hdrEnc headerA) State.reset = ok (.bytes frameA) ∧
    answerAt (.hdrEnc { headerB with checksum := none }) State.reset = failed .invalidRecord := by
  decide
theorem vector_hdr_dec :
    answerAt (.hdrDec frameB) State.reset = ok (.header headerB 17) ∧
    answerAt (.hdrDec [0, 0, 0, 0x0d, 0x12, 0x34, 0x56, 0x78, 0x18, 0, 0, 0, 4]) State.reset =
      failed .messageTooShort := by decide

/-- V7.1, V7.5. -/
theorem vector_msg_enc :
    answerAt (.msgEnc 1 []) State.reset = ok (.bytes frameA) ∧
    answerAt (.msgEnc 2 []) State.reset =
      ok (.bytes [0, 0, 0, 9, 0x12, 0x34, 0x56, 0x78, 2, 0, 0, 0, 0]) := by decide
/-- V7.2, and V7.4's 17 bytes with content-id 2 and an empty rest. -/
theorem vector_msg_dec :
    answerAt (.msgDec frameM2) State.reset =
      ok (.message ⟨⟨33, ⟨0x12, 0x34, 0x56, 0x78⟩, 2, 20, some ⟨0x4f, 0xb5, 0xe7, 0xe2⟩⟩,
        .peers [peer1, peer2]⟩) ∧
    answerAt (.msgDec [0, 0, 0, 0x0d, 0x12, 0x34, 0x56, 0x78, 2, 0, 0, 0, 4, 0xaa, 0xbb, 0xcc, 0xdd])
      State.reset = failed .messageTooShort := by
  decide +kernel

/-- V8.2, many frames in one chunk. -/
theorem vector_rx_many_frames :
    eventsOf (exec (.rxChunk (frameA ++ frameB ++ [0, 0, 0, 9, 0x12, 0x34])) (framed none [] 0)) =
      [eventA, eventB] ∧
    view (after (exec (.rxChunk (frameA ++ frameB ++ [0, 0, 0, 9, 0x12, 0x34])) (framed none [] 0))) =
      (.framed, [0, 0, 0, 9, 0x12, 0x34], 13, false) := by
  decide +kernel
/-- V8.6, the fault, and V8.4, the huge prefix that does not wrap. -/
theorem vector_rx_fault_and_huge_prefix :
    eventsOf (exec (.rxChunk (frameA ++ frameM2)) (framed (some 21) [] 0)) =
      [eventA, .fault (.error .frameTooLarge) 37] ∧
    view (after (exec (.rxChunk (frameA ++ frameM2)) (framed (some 21) [] 0))) =
      (.framed, frameM2, 37, true) ∧
    view (after (exec (.rxChunk [0xff, 0xff, 0xff, 0xff, 0x12, 0x34]) (framed none [] 0))) =
      (.framed, [0xff, 0xff, 0xff, 0xff, 0x12, 0x34], 4294967299, false) := by
  decide +kernel
/-- V8.9, a handshake and a frame in one chunk: the frame is discarded. -/
theorem vector_rx_handshake :
    eventsOf (exec (.rxChunk (hsw ++ frameA)) State.reset) =
      [.handshake .ok (some hswRecord) 48] ∧
    view (after (exec (.rxChunk (hsw ++ frameA)) State.reset)) = (.framed, [], 0, false) := by
  decide +kernel

/-- V9. -/
theorem vector_reset :
    view (after (exec .reset { framed (some 21) frameM2 37 with fault := true })) =
      (.handshake, [], 0, false) := by decide
theorem vector_illegal :
    step { framed none [0, 0] 0 with pending := [⟨.command, 0x13, Operands.zero⟩] } =
      .next { framed none [0, 0] 0 with answer := failed .illegalCommand } := rfl

/-- R70, R71: an entry with and without a decoder. -/
theorem vector_content_ids :
    answerAt (.cidPeers p2) State.reset = ok (.payload (.peers [peer1, peer2])) ∧
    answerAt (.cidScore [1, 2]) State.reset = ok (.payload (.opaqueBytes [1, 2])) := by decide

/-- R75: a command in its written form. -/
theorem vector_listing :
    instrListing (.msgEnc 0x18 [1, 2]) = "MSG_ENC 0x18, x\"0102\"" := by decide +kernel

/-! ## A witness for each statement that has hypotheses -/

theorem witness_BeDecodeReadsLeadingBytes :
    ([] : Bytes).length < 1 ∧ ([1, 2, 3] : Bytes).length < 4 ∧ (List.replicate 7 0 : Bytes).length < 8 := by
  decide

theorem witness_BigEndianRoundTrip :
    (1 ∈ [1, 4, 8] ∧ 2 ^ (8 * 1) - 1 < 2 ^ (8 * 1)) ∧ (8 ∈ [1, 4, 8] ∧ 2 ^ 64 - 1 < 2 ^ (8 * 8)) ∧
    (4 ∈ [1, 4, 8] ∧ ([0xff, 0xff, 0xff, 0xff] : Bytes).length = 4) := by decide

theorem witness_AddrEncWritesAddressAndPort :
    peer1.ip.length = 4 ∧ (Peer.mk [1, 2, 3] 0).ip.length ≠ 4 ∧ (Peer.mk [1, 2, 3, 4, 5] 0).ip.length ≠ 4 := by
  decide

theorem witness_AddrDecReadsEightBytes : (List.replicate 7 0 : Bytes).length < 8 := by decide

theorem witness_PeersEncWritesCountAndEntries :
    2 ^ 32 - 1 < (List.replicate (2 ^ 32) peer1).length ∧
    ((List.replicate (2 ^ 32 - 1) peer1).length ≤ 2 ^ 32 - 1 ∧
      ∀ a ∈ List.replicate (2 ^ 32 - 1) peer1, a.ip.length = 4) ∧
    ([peer1, ⟨[], 0⟩].length ≤ 2 ^ 32 - 1 ∧ ∃ a ∈ [peer1, ⟨[], 0⟩], a.ip.length ≠ 4) := by
  refine ⟨?_, ⟨?_, fun a h => ?_⟩, by decide, ⟨[], 0⟩, by simp, by decide⟩
  · rw [List.length_replicate]; omega
  · rw [List.length_replicate]
  rw [(List.mem_replicate.mp h).2]
  rfl

theorem witness_PeersDecReadsCountedEntries :
    ([0, 0, 0] : Bytes).length < 4 ∧
    (4 ≤ ([0, 0, 0, 1] ++ List.replicate 7 0 : Bytes).length ∧
      ([0, 0, 0, 1] ++ List.replicate 7 0 : Bytes).length <
        4 + 8 * rdBe ([0, 0, 0, 1] ++ List.replicate 7 0) 0 4) ∧
    (4 ≤ ([0, 0, 0, 1] ++ List.replicate 8 0 : Bytes).length ∧
      4 + 8 * rdBe ([0, 0, 0, 1] ++ List.replicate 8 0) 0 4 ≤
        ([0, 0, 0, 1] ++ List.replicate 8 0 : Bytes).length) := by decide

theorem witness_PeersRoundTrip :
    peer2.ip.length = 4 ∧ (∀ a ∈ [peer1, peer2], a.ip.length = 4) ∧ [peer1, peer2].length < 2 ^ 32 := by
  decide

theorem witness_HsEncChecksThenWritesRecord :
    255 < (List.replicate 256 (0 : Byte)).length ∧ (List.replicate 255 (0 : Byte)).length ≤ 255 ∧
    ((bare (some ⟨List.replicate 16 0, 1⟩)).declAddress = some ⟨List.replicate 16 0, 1⟩ ∧
      (List.replicate 16 (0 : Byte)).length ≠ 4) ∧
    ((bare (some ⟨[0, 0, 0, 0], 65536⟩)).declAddress = some ⟨[0, 0, 0, 0], 65536⟩ ∧
      65535 < (65536 : U32).toNat) ∧
    (bare none).declAddress = none ∧
    ((bare (some ⟨[0, 0, 0, 0], 65535⟩)).declAddress = some ⟨[0, 0, 0, 0], 65535⟩ ∧
      ([0, 0, 0, 0] : Bytes).length = 4 ∧ (65535 : U32).toNat ≤ 65535) := by
  decide +kernel

theorem witness_HsDecOfTruncatedHandshakeIsTooShort :
    exec (.hsEnc hsdRecord) State.reset = .next { State.reset with answer := ok (.bytes hsd) } ∧
      0 < hsd.length ∧ 48 < hsd.length := ⟨rfl, by decide, by decide⟩

theorem witness_InvalidAddressIsNeverRaised :
    ([1, 2, 3, 4] : Bytes).length = 4 ∧ (List.replicate 16 (1 : Byte)).length = 16 ∧
    (exec (.rxChunk [1]) State.reset = .next (after (exec (.rxChunk [1]) State.reset)) ∧
      (after (exec (.rxChunk [1]) State.reset)).answer =
        ok (.events [.handshake (.error .messageTooShort) none 0])) :=
  ⟨by decide, by decide, rfl, by decide +kernel⟩

theorem witness_HandshakeRoundTrip :
    hsdRecord.encodable = true ∧
    (bare (some ⟨[0, 0, 0, 0], 65535⟩)).encodable = true ∧
    exec (.hsDec (pfx ++ [0, 0, 0, 0x14] ++ List.replicate 16 7 ++
        [0, 0, 0x1a, 0xd4, 0, 0, 0, 0, 0, 0, 0, 5])) State.reset =
      .next (State.reset.setAnswer
        ⟨.ok, some (.handshake { bare (some ⟨List.replicate 16 7, 6868⟩) with timestamp := 5 } 54)⟩) ∧
    (List.replicate 16 (7 : Byte)).length = 16 := ⟨by decide, by decide, rfl, by decide⟩

theorem witness_HdrEncWritesFieldsAsGiven : (0 : U32) = 0 ∧ (1 : U32) ≠ 0 := by decide

theorem witness_HdrDecReadsFieldsAtOffsets :
    (frameA.take 12).length < 13 ∧ ((0 : Byte) ++ (0 : Byte) ++ (0 : Byte) ++ (0 : Byte) : U32) = 0 ∧
    ((0 : Byte) ++ (0 : Byte) ++ (0 : Byte) ++ (1 : Byte) : U32) ≠ 0 ∧ ([1, 2, 3] : Bytes).length < 4 ∧
    ([1, 2, 3, 4] : Bytes) = 1 :: 2 :: 3 :: 4 :: [] := by decide

theorem witness_HeaderRoundTrip : headerA.wellFormed = true ∧ headerB.wellFormed = true := by decide

theorem witness_MsgEncBuildsFrame :
    ([7] : Bytes) ≠ [] ∧
    (List.replicate (2 ^ 32 - 14) (0 : Byte) ≠ [] ∧
      (List.replicate (2 ^ 32 - 14) (0 : Byte)).length ≤ 2 ^ 32 - 14) ∧
    2 ^ 32 - 14 < (List.replicate (2 ^ 32 - 13) (0 : Byte)).length := by
  refine ⟨by decide, ⟨fun h => ?_, ?_⟩, ?_⟩
  · have := congrArg List.length h
    rw [List.length_replicate, List.length_nil] at this
    omega
  · rw [List.length_replicate]
  · rw [List.length_replicate]; omega

/-- One frame for each clause: 12 bytes, 13, 16, content-id 2 with two entries and with an inconsistent
count, another content-id with an empty rest and with bytes. -/
theorem witness_MsgDecDispatchesOnContentId :
    (frameA.take 12).length < 13 ∧ (13 ≤ frameA.length ∧ frameA.length < 17) ∧
    (13 ≤ (frameB.take 16).length ∧ (frameB.take 16).length < 17) ∧
    (17 ≤ frameM2.length ∧ byteAt frameM2 8 = 2 ∧ rdBe frameM2 9 4 ≠ 0 ∧
      answerAt (.peersDec (frameM2.drop 17)) State.reset = ok (.peers [peer1, peer2])) ∧
    (17 ≤ (frameB.take 20).length ∧ byteAt (frameB.take 20) 8 = 2 ∧
      answerAt (.peersDec ((frameB.take 20).drop 17)) State.reset = failed .messageTooShort) ∧
    (17 ≤ (frameB.take 8 ++ 0x18 :: (frameB.drop 9).take 8).length ∧
      byteAt (frameB.take 8 ++ 0x18 :: (frameB.drop 9).take 8) 8 ≠ 2 ∧
      (frameB.take 8 ++ 0x18 :: (frameB.drop 9).take 8).drop 17 = []) ∧
    (17 ≤ (frameA ++ [1, 2, 3, 4]).length ∧ byteAt (frameA ++ [1, 2, 3, 4]) 8 ≠ 2 ∧
      rdBe (frameA ++ [1, 2, 3, 4]) 9 4 = 0 ∧ (frameA ++ [1, 2, 3, 4]).drop 13 ≠ []) := by
  decide +kernel

theorem witness_MessageRoundTrip :
    ([] : Bytes).length ≤ 2 ^ 32 - 14 ∧
    (p2.length ≤ 2 ^ 32 - 14 ∧
      exec (.peersEnc [peer1, peer2]) State.reset = .next { State.reset with answer := ok (.bytes p2) }) ∧
    ((0x18 : Byte) ≠ 0x02 ∧ ([1, 2] : Bytes) ≠ [] ∧ ([1, 2] : Bytes).length ≤ 2 ^ 32 - 14) :=
  ⟨by decide, ⟨by decide, rfl⟩, by decide⟩

theorem witness_ReceivedChecksumIsNotVerified :
    (frameB.take 13).length = 13 ∧ 0 < rdBe (frameB.take 13) 9 4 := by decide

theorem witness_ContentIdEntriesDecodePayloads :
    (Instr.cidScore [1]) ∈ [Instr.cidGetPeers [1], .cidScore [1]] ∧ ([1] : Bytes) ≠ [] ∧
    ([0, 0, 0] : Bytes).length < 4 ∧
    (4 ≤ ([0, 0, 0, 1] : Bytes).length ∧
      ([0, 0, 0, 1] : Bytes).length < 4 + 8 * rdBe [0, 0, 0, 1] 0 4) ∧
    (4 ≤ p2.length ∧ 4 + 8 * rdBe p2 0 4 ≤ p2.length) := by decide

theorem witness_MsgDecUsesPayloadTable : 17 ≤ (frameB.take 17).length := by decide

theorem witness_FaultedBlockRefusesChunks :
    ({ framed (some 21) frameM2 37 with fault := true } : State).fault = true ∧
    Instr.cksum [] ≠ .reset ∧
    exec (.cksum []) { framed (some 21) frameM2 37 with fault := true } =
      .next (after (exec (.cksum []) { framed (some 21) frameM2 37 with fault := true })) :=
  ⟨rfl, by decide, rfl⟩

theorem witness_EmptyChunkDoesNothing :
    State.reset.fault = false ∧ (framed none [1] 0).fault = false := by decide

theorem witness_HandshakeChunkMovesToFramed :
    State.reset.fault = false ∧ State.reset.rxMode = .handshake ∧ hsd ≠ [] ∧
    exec (.hsDec hsd) State.reset =
      .next { State.reset with answer := ok (.handshake hsdRecord 49) } ∧
    ([0] : Bytes) ≠ [] ∧
    exec (.hsDec [0]) State.reset = .next { State.reset with answer := failed .messageTooShort } :=
  ⟨rfl, rfl, by decide, rfl, by decide, rfl⟩

/-- The three clauses: 3 prefix bytes; 16 bytes of a frame of exactly `MAX_FRAME = 17`; 12 bytes of a
frame whose `TARGET` is set. -/
theorem witness_IncompleteFrameWaits :
    ((framed (some 17) [0] 0).fault = false ∧ (framed (some 17) [0] 0).rxMode = .framed ∧
      (framed (some 17) [0] 0).target = 0 ∧ ([0] ++ [0, 0] : Bytes).length < 4) ∧
    (4 ≤ ([0] ++ ([0, 0, 13] ++ List.replicate 12 0) : Bytes).length ∧
      ([0] ++ ([0, 0, 13] ++ List.replicate 12 0) : Bytes).length <
        rdBe ([0] ++ ([0, 0, 13] ++ List.replicate 12 0)) 0 4 + 4 ∧
      exceedsMaxFrame ⟨some 17⟩ (rdBe ([0] ++ ([0, 0, 13] ++ List.replicate 12 0)) 0 4 + 4) = false) ∧
    ((framed none (frameA.take 4) 13).target ≠ 0 ∧
      (frameA.take 4 ++ (frameA.take 12).drop 4).length < (framed none (frameA.take 4) 13).target.toNat) := by
  decide

theorem witness_FrameEventCarriesMsgDec :
    exec (.msgDec frameB) State.reset =
      .next { State.reset with answer := ok (.message ⟨headerB, .peers []⟩) } ∧
    exec (.msgDec [0, 0, 0, 0]) State.reset =
      .next { State.reset with answer := failed .messageTooShort } :=
  ⟨msgDec_next State.reset (by decide +kernel), msgDec_next State.reset (by decide +kernel)⟩

/-- A framed block with half of frame `A` buffered receives the rest, frame `B` (exactly `MAX_FRAME`) and
four more bytes. -/
theorem witness_StreamOfFramesIsEmittedInOrder :
    (framed (some 21) (frameA.take 6) 13).Inv ∧ (framed (some 21) (frameA.take 6) 13).fault = false ∧
    (framed (some 21) (frameA.take 6) 13).rxMode = .framed ∧
    frameA.drop 6 ++ frameB ++ [0, 0, 0, 1] ≠ [] ∧
    frameA.take 6 ++ (frameA.drop 6 ++ frameB ++ [0, 0, 0, 1]) = [frameA, frameB].flatten ++ [0, 0, 0, 1] ∧
    (∀ f ∈ [frameA, frameB], CompleteFrame ⟨some 21⟩ f) ∧ IncompleteFrame ⟨some 21⟩ [0, 0, 0, 1] := by
  decide +kernel

/-- `MAX_FRAME = 17` and a prefix that says 18. -/
theorem witness_OversizePrefixFaults :
    (framed (some 17) [0, 0] 0).Inv ∧ (framed (some 17) [0, 0] 0).fault = false ∧
    (framed (some 17) [0, 0] 0).rxMode = .framed ∧ (frameA.drop 2 ++ [0, 0, 0, 14] : Bytes) ≠ [] ∧
    [0, 0] ++ (frameA.drop 2 ++ [0, 0, 0, 14]) = [frameA].flatten ++ [0, 0, 0, 14] ∧
    (∀ f ∈ [frameA], CompleteFrame ⟨some 17⟩ f) ∧ OversizePrefix ⟨some 17⟩ [0, 0, 0, 14] ∧
    (framed none [] 0).params.maxFrame = none ∧ (framed none [] 0).fault = false := by
  decide +kernel

theorem witness_ChunkBoundariesDoNotMatter :
    (framed none [] 0).rxMode = .framed ∧ (framed none [] 0).fault = false ∧
    exec (.rxChunk (frameA.take 2 ++ (frameA.drop 2 ++ frameB))) (framed none [] 0) =
      .next (after (exec (.rxChunk (frameA ++ frameB)) (framed none [] 0))) ∧
    (after (exec (.rxChunk (frameA ++ frameB)) (framed none [] 0))).answer =
      ok (.events [eventA, eventB]) ∧
    reportsFault [eventA, eventB] = false :=
  ⟨rfl, rfl, rfl, by decide +kernel, by decide⟩

theorem witness_AnyChunkingGivesTheSameStream :
    (framed none [] 0).rxMode = .framed ∧ (framed none [] 0).fault = false ∧
    exec (.rxChunk [frameA.take 2, [], frameA.drop 2].flatten) (framed none [] 0) =
      .next (after (exec (.rxChunk frameA) (framed none [] 0))) ∧
    (after (exec (.rxChunk frameA) (framed none [] 0))).answer = ok (.events [eventA]) ∧
    reportsFault [eventA] = false :=
  ⟨rfl, rfl, rfl, by decide +kernel, by decide⟩

theorem witness_FramedBytesAreConserved :
    (framed (some 21) [] 0).rxMode = .framed ∧ (framed (some 21) [] 0).fault = false ∧
    exec (.rxChunk (frameA ++ frameM2)) (framed (some 21) [] 0) =
      .next (after (exec (.rxChunk (frameA ++ frameM2)) (framed (some 21) [] 0))) ∧
    (after (exec (.rxChunk (frameA ++ frameM2)) (framed (some 21) [] 0))).answer =
      ok (.events [eventA, .fault (.error .frameTooLarge) 37]) := ⟨rfl, rfl, rfl, by decide +kernel⟩

theorem witness_SlicedFramesRespectMaxFrame :
    (framed (some 21) [] 0).Inv ∧ (framed (some 21) [] 0).fault = false ∧
    exec (.rxChunk frameB) (framed (some 21) [] 0) =
      .next (after (exec (.rxChunk frameB) (framed (some 21) [] 0))) ∧
    (after (exec (.rxChunk frameB) (framed (some 21) [] 0))).answer = ok (.events [eventB]) ∧
    frameB ∈ framesOf [eventB] ∧ (framed (some 21) [] 0).params.maxFrame = some 21 :=
  ⟨by decide +kernel, rfl, rfl, by decide +kernel, by decide, rfl⟩

theorem witness_PacketLengthReadTwiceAgrees :
    exec (.msgDec frameB) State.reset =
      .next { State.reset with answer := ok (.message ⟨headerB, .peers []⟩) } :=
  msgDec_next State.reset (by decide +kernel)

theorem witness_PowerOnIsTheStateResetLeaves :
    (framed (some 21) [1] 0).params = ⟨some 21⟩ ∧
    exec .reset (framed (some 21) [1] 0) = .next (after (exec .reset (framed (some 21) [1] 0))) :=
  ⟨rfl, rfl⟩

theorem witness_IllegalOpcodeAnswersIllegalCommand :
    (0x00 : Byte) ∉ commandOpcodes ∧ (0x1B : Byte) ∉ commandOpcodes ∧ (0xFF : Byte) ∉ commandOpcodes := by
  decide

theorem witness_OnlyTheCommandMapDecodes :
    (0x14 : Byte).getLsbD 2 = true ∧ 9 ≤ (0x90 : Byte).toNat / 16 := by decide

theorem witness_DecodeEncodeAgree :
    decode ⟨.command, 0x60, { Operands.zero with u8 := 2, u32 := 5 }⟩ = .ok (.msgEnc 2 []) ∧
    encode (.cksum []) = encode (.cksum []) := ⟨rfl, rfl⟩

theorem witness_StepRunsTheDecodedInstruction :
    (State.reset.withFetchWord 8 0x01).pending = [⟨.command, 0x01, Operands.zero⟩] ∧
    decode ⟨.command, 0x01, Operands.zero⟩ = .ok .reset := ⟨rfl, rfl⟩

theorem witness_IdleStepKeepsTheState : State.reset.pending = [] := rfl

theorem witness_EveryRequestIsAnswered :
    (State.reset.withFetchWord 8 0x01).pending = tableRequest 0x01 :: [] ∧
    decode (tableRequest 0x01) = .ok .reset ∧ decode (tableRequest 0x20) ≠ .ok .reset :=
  ⟨rfl, rfl, fun h => by cases h⟩

theorem witness_ErrorsWriteNoState :
    exec (.beDec4 [1]) State.reset = .next { State.reset with answer := failed .messageTooShort } ∧
    exec (.rxChunk [1]) { framed (some 17) [] 0 with fault := true } =
      .next { framed (some 17) [] 0 with fault := true, answer := failed .frameTooLarge } := ⟨rfl, rfl⟩

theorem witness_CodecCommandsArePure : Instr.cksum [1] ≠ .reset ∧ ∀ c, Instr.cksum [1] ≠ .rxChunk c :=
  ⟨by decide, fun c h => by cases h⟩

/-- Each clause of the statement by a step that takes it: `RESET`, a handshake chunk, an oversize
prefix. -/
theorem witness_ModeAndFaultHaveOnlyTheirWriters :
    ((framed none [] 0).rxMode = .framed ∧ (after (exec .reset (framed none [] 0))).rxMode = .handshake) ∧
    (State.reset.rxMode = .handshake ∧ (after (exec (.rxChunk [1]) State.reset)).rxMode = .framed) ∧
    ((framed (some 17) [] 0).fault = false ∧
      (after (exec (.rxChunk [0, 0, 0, 14]) (framed (some 17) [] 0))).fault = true) ∧
    (({ framed (some 21) frameM2 37 with fault := true } : State).fault = true ∧
      (after (exec .reset { framed (some 21) frameM2 37 with fault := true })).fault = false) := by
  decide +kernel

/-- States with the invariants, and a step from each: a handshake block, a framed one that waits, a
faulted one. -/
theorem witness_StepKeepsReassemblyInvariant :
    State.reset.Inv ∧ (framed (some 21) (frameA.take 6) 13).Inv ∧
    step { framed (some 21) (frameA.take 6) 13 with pending := [encode (.rxChunk (frameA.drop 6))] } =
      .next (after (exec (.rxChunk (frameA.drop 6)) (framed (some 21) (frameA.take 6) 13))) ∧
    exec .reset (framed (some 21) [1, 2, 3, 4, 5] 0) =
      .next (after (exec .reset (framed (some 21) [1, 2, 3, 4, 5] 0))) :=
  ⟨by decide, by decide +kernel, rfl, rfl⟩

theorem witness_StepKeepsFaultInvariant :
    ({ framed (some 21) frameM2 37 with fault := true, pending := [encode (.rxChunk [1])] } : State).Inv ∧
    ({ framed (some 21) frameM2 37 with fault := true, pending := [encode (.rxChunk [1])] } : State).FaultInv ∧
    step { framed (some 21) frameM2 37 with fault := true, pending := [encode (.rxChunk [1])] } =
      .next { framed (some 21) frameM2 37 with fault := true, answer := failed .frameTooLarge } :=
  ⟨by decide +kernel, by decide +kernel, rfl⟩

theorem witness_StepKeepsTargetInRange :
    State.reset.TargetInRange ∧ (framed none [0, 0, 0, 0] 4).TargetInRange ∧
    (framed none [0xff, 0xff, 0xff, 0xff] 4294967299).TargetInRange ∧
    step State.reset = .next State.reset := ⟨by decide, by decide, by decide, rfl⟩

theorem witness_BufferStaysBelowMaxFrame :
    (framed (some 17) ([0, 0, 0, 13] ++ List.replicate 12 0) 17).Inv ∧
    (framed (some 17) ([0, 0, 0, 13] ++ List.replicate 12 0) 17).fault = false ∧
    (framed (some 17) ([0, 0, 0, 13] ++ List.replicate 12 0) 17).params.WF ∧
    (framed (some 17) ([0, 0, 0, 13] ++ List.replicate 12 0) 17).params.maxFrame = some 17 :=
  ⟨by decide +kernel, rfl, by simp [framed, State.powerOn, Config.Params.WF], rfl⟩

/-- Each of the five encode commands with a well-formed and an ill-formed operand: the instruction, whether
it is well-formed, and the status it answers. `MSG_ENC`'s ill-formed payload has a witness of its own. -/
theorem witness_EncodersAcceptExactlyWellFormed :
    ([.addrEnc peer1, .addrEnc ⟨[1, 2, 3], 0⟩, .hsEnc hsdRecord, .hsEnc (bare (some ⟨[0, 0, 0, 0], 65536⟩)),
      .hdrEnc headerB, .hdrEnc { headerB with checksum := none }, .msgEnc 1 [],
      .peersEnc [peer1, peer2], .peersEnc [⟨[], 0⟩]] : List Instr).map
      (fun i => (i.wellFormed, (answerAt i State.reset).map Answer.status)) =
    [(true, some .ok), (false, some (.error .unsupportedAddress)), (true, some .ok),
      (false, some (.error .invalidPort)), (true, some .ok), (false, some (.error .invalidRecord)),
      (true, some .ok), (true, some .ok), (false, some (.error .unsupportedAddress))] := by
  decide +kernel

theorem witness_EncodersAcceptExactlyWellFormed_steps :
    exec (.addrEnc peer1) State.reset = .next (after (exec (.addrEnc peer1) State.reset)) ∧
    exec (.hsEnc hsdRecord) State.reset = .next (after (exec (.hsEnc hsdRecord) State.reset)) ∧
    exec (.hdrEnc headerB) State.reset = .next (after (exec (.hdrEnc headerB) State.reset)) ∧
    exec (.msgEnc 1 []) State.reset = .next (after (exec (.msgEnc 1 []) State.reset)) ∧
    exec (.peersEnc [⟨[], 0⟩]) State.reset = .next (after (exec (.peersEnc [⟨[], 0⟩]) State.reset)) :=
  ⟨rfl, rfl, rfl, rfl, rfl⟩

/-- The shortest payloads that `MSG_ENC` refuses. -/
theorem witness_EncodersAcceptExactlyWellFormed_overflow (p : Bytes) (h : p.length = 2 ^ 32 - 13) :
    (Instr.msgEnc 2 p).wellFormed = false ∧
    (answerAt (.msgEnc 2 p) State.reset).map Answer.status = some (.error .lengthOverflow) := by
  refine ⟨wf_refuses_oversize_payload p (by omega), ?_⟩
  have he : encodeMessage 2 p = .error .lengthOverflow := by
    rw [encodeMessage, headerSize, if_pos]
    split <;> omega
  rw [answerAt, exec, execMsgEnc, answers_eq, he]
  rfl

/-- There is such a payload. -/
theorem witness_EncodersAcceptExactlyWellFormed_payload : ∃ p : Bytes, p.length = 2 ^ 32 - 13 :=
  ⟨List.replicate (2 ^ 32 - 13) 0, by rw [List.length_replicate]⟩

theorem witness_PseudoCommandsExpand :
    exec (.peersEnc [peer1, peer2]) State.reset = .next { State.reset with answer := ok (.bytes p2) } ∧
    exec (.peersEnc [⟨[], 0⟩]) State.reset =
      .next { State.reset with answer := failed .unsupportedAddress } ∧
    4 + 8 * [peer1, peer2].length ≤ 2 ^ 32 - 14 ∧ (∀ a ∈ [peer1, peer2], a.ip.length = 4) :=
  ⟨rfl, rfl, by decide, by decide⟩

theorem witness_BootSequenceStartsConnection : hsdRecord.encodable = true := by decide

theorem witness_PendingRequestsAreAllServed :
    ({ State.reset with pending := bootSequence hsdRecord [hsw, frameA] } : State).Inv ∧
    ({ State.reset with pending := bootSequence hsdRecord [hsw, frameA] } : State).pending ≠ [] := by
  constructor
  · exact fun _ => ⟨fun _ => ⟨rfl, rfl⟩, fun _ => by decide, fun h => absurd rfl h⟩
  · exact fun h => by cases h

/-- A frame for each clause, and the kind `MSG_DEC` and its frame event return. -/
theorem witness_PayloadKindsAreTheListedOnes :
    (frameA.length = 13 ∧ (eventA.payloadKind).map PayloadKind.code = some 0) ∧
    (17 ≤ frameM2.length ∧ byteAt frameM2 8 = 2 ∧
      (answerAt (.msgDec frameM2) State.reset).map Answer.status = some .ok ∧
      (answerAt (.msgDec frameM2) State.reset).bind Answer.payloadKind = some .peers) ∧
    ((answerAt (.msgDec (frameB.take 20)) State.reset).map Answer.status =
        some (.error .messageTooShort) ∧
      (answerAt (.msgDec (frameB.take 20)) State.reset).bind Answer.payloadKind = none) ∧
    (byteAt (frameB.take 8 ++ 0x18 :: (frameB.drop 9).take 8) 8 ≠ 2 ∧
      (frameB.take 8 ++ 0x18 :: (frameB.drop 9).take 8).length = 17 ∧
      (frameEvent (frameB.take 8 ++ 0x18 :: (frameB.drop 9).take 8)).payloadKind = some .none) ∧
    (byteAt (frameA ++ [1, 2, 3, 4]) 8 ≠ 2 ∧ (frameA ++ [1, 2, 3, 4]).length = 17 ∧
      (frameEvent (frameA ++ [1, 2, 3, 4])).payloadKind = some .opaqueBytes) := by
  decide +kernel

end Sys2Proof.Tests
end

