-- ==== Sys2Proof/Proofs/State.lean ====
section
/-!
PROOFS. The statements about the state (spec/10_state.md): what a command and a step can do to the state,
what the drain of the reassembler keeps, and the obligations that follow from them.
-/

namespace Sys2Proof.Machine

/-! ## What a command can do to the state -/

/-- A command other than `RESET` and `RX_CHUNK` answers from its operands alone and writes nothing but
its answer (R49). -/
theorem exec_codec : ∀ i : Instr, i ≠ .reset → (∀ c, i ≠ .rxChunk c) →
    ∃ a : Answer, ∀ s : State, exec i s = .next (s.setAnswer a)
  | .reset, hr, _ => absurd rfl hr
  | .rxChunk c, _, hc => absurd rfl (hc c)
  | .beEnc1 _, _, _ => ⟨_, returns_eq _⟩
  | .beEnc4 _, _, _ => ⟨_, returns_eq _⟩
  | .beEnc8 _, _, _ => ⟨_, returns_eq _⟩
  | .beDec1 _, _, _ => ⟨_, answers_eq _ _⟩
  | .beDec4 _, _, _ => ⟨_, answers_eq _ _⟩
  | .beDec8 _, _, _ => ⟨_, answers_eq _ _⟩
  | .cksum _, _, _ => ⟨_, returns_eq _⟩
  | .addrEnc _, _, _ => ⟨_, answers_eq _ _⟩
  | .addrDec _, _, _ => ⟨_, answers_eq _ _⟩
  | .hsEnc _, _, _ => ⟨_, answers_eq _ _⟩
  | .hsDec _, _, _ => ⟨_, answers_eq _ _⟩
  | .hdrEnc _, _, _ => ⟨_, answers_eq _ _⟩
  | .hdrDec _, _, _ => ⟨_, answers_eq _ _⟩
  | .msgEnc _ _, _, _ => ⟨_, answers_eq _ _⟩
  | .msgDec _, _, _ => ⟨_, answers_eq _ _⟩
  | .peersEnc _, _, _ => ⟨_, answers_eq _ _⟩
  | .peersDec _, _, _ => ⟨_, answers_eq _ _⟩
  | .cidGetPeers _, _, _ => ⟨_, answers_eq _ _⟩
  | .cidPeers _, _, _ => ⟨_, answers_eq _ _⟩
  | .cidSignatures _, _, _ => ⟨_, answers_eq _ _⟩
  | .cidGetBlock _, _, _ => ⟨_, answers_eq _ _⟩
  | .cidBlock _, _, _ => ⟨_, answers_eq _ _⟩
  | .cidScore _, _, _ => ⟨_, answers_eq _ _⟩
  | .cidTransaction _, _, _ => ⟨_, answers_eq _ _⟩
  | .cidInvMicroblock _, _, _ => ⟨_, answers_eq _ _⟩
  | .cidMicroblockRequest _, _, _ => ⟨_, answers_eq _ _⟩
  | .cidMicroblock _, _, _ => ⟨_, answers_eq _ _⟩
  | .cidCheckpoint _, _, _ => ⟨_, answers_eq _ _⟩

theorem exec_reset (s : State) :
    exec .reset s = .next ((clearConnection s).setAnswer ⟨.ok, none⟩) := rfl

/-- The states an instruction can leave behind, but for its answer. -/
inductive CommandEffect (i : Instr) (s : State) : State → Prop
  /-- A codec command, a refused chunk or an empty one (R49, R196, R197). -/
  | unchanged : CommandEffect i s s
  /-- `RESET` (R220). -/
  | cleared : i = .reset → CommandEffect i s (clearConnection s)
  /-- The chunk that is read as the handshake (R192). -/
  | greeted (c : Bytes) : i = .rxChunk c → c ≠ [] → s.fault = false → s.rxMode = .handshake →
      CommandEffect i s { s with rxMode := .framed }
  /-- A chunk that is appended and drained (R191). -/
  | drained (c : Bytes) : i = .rxChunk c → c ≠ [] → s.fault = false → s.rxMode = .framed →
      CommandEffect i s (framedStep c s).1

/-- Everything `exec` can do to the state. -/
theorem exec_effect {i : Instr} {s t : State} (h : exec i s = .next t) :
    ∃ u a, t = u.setAnswer a ∧ CommandEffect i s u := by
  by_cases hr : i = .reset
  · subst hr
    rw [exec_reset] at h
    exact ⟨_, _, (Host.Outcome.next.inj h).symm, .cleared rfl⟩
  by_cases hc : ∃ c, i = .rxChunk c
  · obtain ⟨c, rfl⟩ := hc
    change execRxChunk c s = .next t at h
    rcases execRxChunk_cases c s with ⟨_, e⟩ | ⟨_, _, e⟩ | ⟨hf, hn, hm, e⟩ | ⟨hf, hn, hm, e⟩ <;>
      rw [e] at h <;> refine ⟨_, _, (Host.Outcome.next.inj h).symm, ?_⟩
    · exact .unchanged
    · exact .unchanged
    · exact .greeted c rfl hn hf hm
    · exact .drained c rfl hn hf hm
  · obtain ⟨a, e⟩ := exec_codec i hr (not_exists.mp hc)
    rw [e] at h
    exact ⟨_, _, (Host.Outcome.next.inj h).symm, .unchanged⟩

/-! ## What a step can do to the state -/

/-- A request that stands for no instruction is answered and writes nothing else (R221, R71). -/
theorem execRejected_eq (r : Request) (s : State) :
    ∃ a, execRejected r s = .next (s.setAnswer a) := by
  unfold execRejected
  cases r.port with
  | command => exact ⟨_, raises_eq _ _⟩
  | contentId => exact ⟨_, answers_eq _ _ _⟩

/-- Everything a step can do: idle, run the decoded instruction, or answer a request that stands for
none. -/
theorem step_cases {s t : State} (h : step s = .next t) :
    (s.pending = [] ∧ t = s) ∨
    (∃ r rest i, s.pending = r :: rest ∧ decode r = .ok i ∧
      exec i { s with pending := rest } = .next t) ∨
    (∃ r rest e a, s.pending = r :: rest ∧ decode r = .error e ∧
      t = State.setAnswer a { s with pending := rest }) := by
  unfold step at h
  cases hp : s.pending with
  | nil =>
    rw [hp] at h
    exact .inl ⟨rfl, (Host.Outcome.next.inj h).symm⟩
  | cons r rest =>
    rw [hp] at h
    cases hd : decode r with
    | ok i =>
      simp only [hd] at h
      exact .inr (.inl ⟨r, rest, i, rfl, hd, h⟩)
    | error e =>
      simp only [hd] at h
      obtain ⟨a, ha⟩ := execRejected_eq r { s with pending := rest }
      rw [ha] at h
      exact .inr (.inr ⟨r, rest, e, a, rfl, hd, (Host.Outcome.next.inj h).symm⟩)

/-- What a predicate has to stand for every step to keep it: the model's own fields do not matter to it,
and `RESET`, the handshake chunk and the drain of a chunk keep it. -/
structure KeptByCommands (P : State → Prop) : Prop where
  answered : ∀ a s, P s → P (s.setAnswer a)
  taken : ∀ rest s, P s → P { s with pending := rest }
  cleared : ∀ s, P s → P (clearConnection s)
  greeted : ∀ s, s.fault = false → s.rxMode = .handshake → P s → P { s with rxMode := .framed }
  drained : ∀ c s, s.fault = false → s.rxMode = .framed → P s → P (framedStep c s).1

/-- An instruction keeps what the commands keep. -/
theorem KeptByCommands.exec {P : State → Prop} (k : KeptByCommands P) {i : Instr} {s t : State}
    (hs : P s) (h : exec i s = .next t) : P t := by
  obtain ⟨u, a, rfl, hu⟩ := exec_effect h
  apply k.answered
  cases hu with
  | unchanged => exact hs
  | cleared _ => exact k.cleared s hs
  | greeted _ _ _ hf hm => exact k.greeted s hf hm hs
  | drained c _ _ hf hm => exact k.drained c s hf hm hs

/-- A step keeps what the commands keep. -/
theorem KeptByCommands.step {P : State → Prop} (k : KeptByCommands P) {s t : State}
    (hs : P s) (h : step s = .next t) : P t := by
  rcases step_cases h with ⟨_, rfl⟩ | ⟨_, rest, _, _, _, he⟩ | ⟨_, rest, _, a, _, _, rfl⟩
  · exact hs
  · exact k.exec (k.taken rest s hs) he
  · exact k.answered a _ (k.taken rest s hs)

/-! ## Where the reassembler's loop stops -/

/-- The three ways the loop stops at a state whose next pass slices no frame off. -/
inductive LoopEnd (u : State) : State → Prop
  /-- The length field has not arrived (R193). -/
  | awaitsPrefix : u.target = 0 → u.buf.length < 4 → LoopEnd u u
  /-- The announced length exceeds `MAX_FRAME` (R195). -/
  | oversize : u.target = 0 → 4 ≤ u.buf.length →
      exceedsMaxFrame u.params (readPrefix u).target.toNat = true →
      LoopEnd u { readPrefix u with fault := true }
  /-- The frame has not arrived (R194). -/
  | awaitsFrame :
      (u.target = 0 → 4 ≤ u.buf.length ∧
        exceedsMaxFrame u.params (readPrefix u).target.toNat = false) →
      u.buf.length < (readPrefix u).target.toNat → LoopEnd u (readPrefix u)

/-- The loop stops at a state that has whatever slicing a frame off keeps. -/
theorem rxLoop_end {P : State → Prop} (hslice : ∀ u, P u → P (sliceOff (readPrefix u)))
    {fuel : Nat} {s : State} (hs : P s) (hfuel : s.buf.length < fuel) :
    ∃ u, P u ∧ LoopEnd u (rxLoop fuel s).1 := by
  induction fuel generalizing s with
  | zero => omega
  | succ fuel ih =>
    rcases rxLoop_cases fuel s with ⟨h0, h4, e⟩ | ⟨h0, h4, hx, e⟩ | ⟨hx, hl, e⟩ | ⟨_, hl, e⟩ <;>
      rw [e]
    · exact ⟨s, hs, .awaitsPrefix h0 h4⟩
    · exact ⟨s, hs, .oversize h0 h4 hx⟩
    · exact ⟨s, hs, .awaitsFrame hx hl⟩
    · have hpos := readPrefix_target_pos s
      exact ih (hslice s hs) (by simp only [sliceOff_buf, readPrefix_buf, List.length_drop]; omega)

/-- The drain of a chunk stops at a state that has what slicing a frame off keeps (R191). -/
theorem framedStep_end {P : State → Prop} (hslice : ∀ u, P u → P (sliceOff (readPrefix u)))
    {c : Bytes} {s : State} (hs : P (bufAppend c s)) :
    ∃ u, P u ∧ LoopEnd u (framedStep c s).1 :=
  rxLoop_end hslice hs (Nat.lt_succ_self _)

/-- The drain writes `BUF`, `TARGET` and `FAULT` and nothing else. -/
theorem framedStep_frame (c : Bytes) (s : State) :
    (framedStep c s).1.rxMode = s.rxMode ∧ (framedStep c s).1.params = s.params ∧
      (framedStep c s).1.pending = s.pending ∧ (framedStep c s).1.answer = s.answer :=
  rxLoop_frame _ (bufAppend c s)

/-! ## The reassembly invariants -/

/-- Bytes that arrive behind the length field do not change the frame's length (R68). -/
theorem frameLength_append {b : Bytes} (c : Bytes) (h : 4 ≤ b.length) :
    frameLength (b ++ c) = frameLength b := by
  rw [frameLength, frameLength, rdBe_append_left (by omega)]

/-- R25 within a command: an unfaulted `FRAMED` block whose `TARGET`, when set, is the accepted length of
the frame at the head of `BUF`, however many bytes of it and after it have arrived. -/
structure State.Draining (s : State) : Prop where
  unfaulted : s.fault = false
  framed : s.rxMode = .framed
  target : s.target ≠ 0 → 4 ≤ s.buf.length ∧ s.target.toNat = frameLength s.buf ∧
    exceedsMaxFrame s.params s.target.toNat = false

/-- Slicing a frame off leaves `TARGET` unset, so nothing is asked of `BUF`. -/
theorem State.Draining.slice {u : State} (h : u.Draining) : (sliceOff (readPrefix u)).Draining where
  unfaulted := by simpa using h.unfaulted
  framed := by simpa using h.framed
  target := fun hc => absurd rfl hc

/-- Appending a chunk to a block between commands starts a drain. -/
theorem State.Draining.of_append {c : Bytes} {s : State} (hf : s.fault = false)
    (hm : s.rxMode = .framed) (hs : s.Inv) : (bufAppend c s).Draining where
  unfaulted := hf
  framed := hm
  target := fun ht => by
    obtain ⟨_, _, hset⟩ := hs hf
    obtain ⟨h4, _, hlen, hx⟩ := hset ht
    refine ⟨by simp; omega, ?_, hx⟩
    rw [bufAppend_target, bufAppend_buf, frameLength_append c h4, hlen]

/-- The block a drain leaves has the invariants: those of R25 when it waits, those of R24 when it has
faulted. -/
theorem State.Draining.inv_of_end {u v : State} (h : u.Draining) (hv : LoopEnd u v) :
    v.Inv ∧ v.FaultInv := by
  obtain ⟨hf, hm, hset⟩ := h
  cases hv with
  | awaitsPrefix h0 h4 => exact ⟨fun _ => by simp [hm, h0, h4], by simp [State.FaultInv, hf]⟩
  | oversize h0 h4 hx =>
    have hlen := readPrefix_target_of_unset h0
    exact ⟨by simp [State.Inv], fun _ => ⟨by simpa using hm, by simpa using h4,
      by simpa using hlen, by simpa using hx⟩⟩
  | awaitsFrame hx hl =>
    have hpos := readPrefix_target_pos u
    have hne : (readPrefix u).target ≠ 0 := fun hc => by simp [hc] at hpos
    have hacc : 4 ≤ u.buf.length ∧ (readPrefix u).target.toNat = frameLength u.buf ∧
        exceedsMaxFrame u.params (readPrefix u).target.toNat = false := by
      by_cases h0 : u.target = 0
      · exact ⟨(hx h0).1, readPrefix_target_of_unset h0, (hx h0).2⟩
      · rw [readPrefix_of_set h0]
        exact hset h0
    obtain ⟨h4, hlen, hx⟩ := hacc
    exact ⟨fun _ => ⟨by simp [hm], fun hc => absurd hc hne,
      fun _ => by simpa using ⟨h4, hl, hlen, hx⟩⟩, by simp [State.FaultInv, hf]⟩

/-- A chunk drained between commands leaves both invariants. -/
theorem framedStep_inv {c : Bytes} {s : State} (hf : s.fault = false) (hm : s.rxMode = .framed)
    (hs : s.Inv) : (framedStep c s).1.Inv ∧ (framedStep c s).1.FaultInv := by
  obtain ⟨u, hu, hv⟩ :=
    framedStep_end (P := State.Draining) (fun _ h => h.slice) (.of_append (c := c) hf hm hs)
  exact hu.inv_of_end hv

/-- `RESET` establishes both invariants in every state (R25, R220). -/
theorem clearConnection_inv (s : State) : (clearConnection s).Inv ∧ (clearConnection s).FaultInv := by
  simp [State.Inv, State.FaultInv]

/-- The handshake chunk leaves `BUF` empty and `TARGET` unset, so the invariants hold in the new mode. -/
theorem greeted_inv {s : State} (hf : s.fault = false) (hm : s.rxMode = .handshake) (hs : s.Inv) :
    State.Inv { s with rxMode := .framed } := by
  obtain ⟨hhs, _, _⟩ := hs hf
  obtain ⟨hb, ht⟩ := hhs hm
  simp [State.Inv, hb, ht]

theorem inv_keptByCommands : KeptByCommands State.Inv where
  answered := fun _ _ h => h
  taken := fun _ _ h => h
  cleared := fun s _ => (clearConnection_inv s).1
  greeted := fun _ hf hm h => greeted_inv hf hm h
  drained := fun _ _ hf hm h => (framedStep_inv hf hm h).1

/-- Settles O51: the commands keep the invariants, and `RESET` sets them up from any state. -/
theorem stepKeepsReassemblyInvariant : Obligations.StepKeepsReassemblyInvariant := by
  refine ⟨fun s t hs h => inv_keptByCommands.step hs h, fun s t h => ?_⟩
  rw [exec_reset] at h
  obtain rfl := Host.Outcome.next.inj h
  exact ⟨rfl, (clearConnection_inv s).1⟩

/-- The invariant of the faulted block is kept together with the one that a fault arises from. -/
theorem faultInv_keptByCommands : KeptByCommands fun s => s.Inv ∧ s.FaultInv where
  answered := fun _ _ h => h
  taken := fun _ _ h => h
  cleared := fun s _ => clearConnection_inv s
  greeted := fun _ hf hm h => ⟨greeted_inv hf hm h.1, by simp [State.FaultInv, hf]⟩
  drained := fun _ _ hf hm h => framedStep_inv hf hm h.1

/-- Settles O52. -/
theorem stepKeepsFaultInvariant : Obligations.StepKeepsFaultInvariant :=
  fun _ _ hs hf h => (faultInv_keptByCommands.step ⟨hs, hf⟩ h).2

/-! ## The range of TARGET -/

/-- Four length bytes announce a frame of 4 to 2^32+3 bytes (R23, R68). -/
theorem frameLength_range (b : Bytes) : 4 ≤ frameLength b ∧ frameLength b ≤ 2 ^ 32 + 3 := by
  have h := rdBe_lt b 0 4
  unfold frameLength
  omega

theorem readPrefix_targetInRange {s : State} (h : s.TargetInRange) :
    (readPrefix s).TargetInRange := by
  by_cases h0 : s.target = 0
  · right
    rw [readPrefix_target_of_unset h0]
    exact frameLength_range s.buf
  · rwa [readPrefix_of_set h0]

theorem framedStep_targetInRange {c : Bytes} {s : State} (h : s.TargetInRange) :
    (framedStep c s).1.TargetInRange := by
  obtain ⟨u, hu, hv⟩ := framedStep_end (P := State.TargetInRange) (fun _ _ => .inl rfl)
    (c := c) (s := s) h
  generalize (framedStep c s).1 = v at hv
  cases hv with
  | awaitsPrefix _ _ => exact hu
  | oversize _ _ _ => exact readPrefix_targetInRange hu
  | awaitsFrame _ _ => exact readPrefix_targetInRange hu

theorem targetInRange_keptByCommands : KeptByCommands State.TargetInRange where
  answered := fun _ _ h => h
  taken := fun _ _ h => h
  cleared := fun _ _ => .inl rfl
  greeted := fun _ _ _ h => h
  drained := fun _ _ _ _ h => framedStep_targetInRange h

/-- Settles O53. -/
theorem stepKeepsTargetInRange : Obligations.StepKeepsTargetInRange :=
  fun _ _ hs h => targetInRange_keptByCommands.step hs h

/-! ## The writers of RX_MODE and FAULT -/

/-- Only a finite `MAX_FRAME` can be exceeded (R195). -/
theorem maxFrame_of_exceeds {p : Config.Params} {n : Nat} (h : exceedsMaxFrame p n = true) :
    ∃ m, p.maxFrame = some m ∧ m < n := by
  simpa [exceedsMaxFrame, Option.any_eq_true] using h

/-- A drain sets `FAULT` only under a finite `MAX_FRAME` (R195). -/
theorem framedStep_fault {c : Bytes} {s : State} (hf : s.fault = false)
    (ht : (framedStep c s).1.fault = true) : ∃ m, s.params.maxFrame = some m := by
  obtain ⟨u, ⟨hu, hp⟩, hv⟩ :=
    framedStep_end (P := fun u => u.fault = false ∧ u.params = s.params) (c := c) (s := s)
      (fun u hu => by simpa using hu) ⟨hf, rfl⟩
  generalize (framedStep c s).1 = v at ht hv
  cases hv with
  | awaitsPrefix _ _ => simp [hu] at ht
  | oversize _ _ hx =>
    obtain ⟨m, hm, _⟩ := maxFrame_of_exceeds hx
    exact ⟨m, hp ▸ hm⟩
  | awaitsFrame _ _ => simp [hu] at ht

/-- Settles O49, by the effects a command can have. -/
theorem modeAndFaultHaveOnlyTheirWriters : Obligations.ModeAndFaultHaveOnlyTheirWriters := by
  intro i s t h
  obtain ⟨u, a, rfl, hu⟩ := exec_effect h
  simp only [setAnswer_rxMode, setAnswer_fault, setAnswer_params, setAnswer_pending]
  cases hu with
  | unchanged => simp +contextual
  | cleared hi => simp [hi]
  | greeted c hi hc hf hm => simp [hf, hm, hc, hi]
  | drained c hi hc hf hm =>
    obtain ⟨hmode, hparams, hpending, _⟩ := framedStep_frame c s
    simpa [hmode, hparams, hpending, hm, hf, hi] using framedStep_fault hf

/-! ## The encoders and well-formedness -/

@[simp] theorem statusOf_ok {α : Type} (v : α) :
    statusOf (.ok v : Except ErrorCode α) = .ok := rfl

@[simp] theorem statusOf_error {α : Type} (e : ErrorCode) :
    statusOf (.error e : Except ErrorCode α) = .error e := rfl

theorem answerOf_status {α : Type} (f : α → Result) (x : Except ErrorCode α) :
    (answerOf f x).status = statusOf x := by
  cases x <;> rfl

/-- R170 asks for R33's 4 address bytes and nothing else. -/
theorem encodeAddress_ok_iff (a : Peer) :
    statusOf (encodeAddress a) = .ok ↔ (Instr.addrEnc a).wellFormed = true := by
  by_cases h : a.ip.length = Config.addr4Len <;>
    simp [encodeAddress, Instr.wellFormed, Peer.wellFormed, h]

theorem encodeDeclAddress_cases (d : Option DeclAddress) :
    (d.all DeclAddress.encodable = true ∧ ∃ w, encodeDeclAddress d = .ok w) ∨
    (d.all DeclAddress.encodable = false ∧ ∃ e, encodeDeclAddress d = .error e) := by
  cases d with
  | none => exact .inl ⟨rfl, _, rfl⟩
  | some a =>
    simp only [encodeDeclAddress, Option.all_some, DeclAddress.encodable]
    by_cases hip : a.ip.length = Config.addr4Len
    · by_cases hport : a.port.toNat ≤ Config.portMax
      · exact .inl ⟨by simp [hip, hport], _, by rw [if_neg (by simp [hip]), if_neg (by omega)]⟩
      · exact .inr ⟨by simp [hport], _, by rw [if_neg (by simp [hip]), if_pos (by omega)]⟩
    · exact .inr (by simp [hip])

/-- R110 asks for the two names' bound and an encodable declared address (R113). -/
theorem encodeHandshake_ok_iff (h : Handshake) :
    statusOf (encodeHandshake h) = .ok ↔ (Instr.hsEnc h).wellFormed = true := by
  simp only [encodeHandshake, Instr.wellFormed, Handshake.encodable, ← not_le]
  by_cases happ : h.appName.length ≤ Config.nameMax
  · by_cases hnode : h.nodeName.length ≤ Config.nameMax
    · rcases encodeDeclAddress_cases h.declAddress with ⟨hd, w, e⟩ | ⟨hd, e', e⟩ <;>
        simp [happ, hnode, hd, e, -not_le]
    · simp [happ, hnode, -not_le]
  · simp [happ, -not_le]

/-- R130 asks that the checksum is present just when `payloadLength > 0` (R32). -/
theorem encodeHeader_ok_iff (h : Header) :
    statusOf (encodeHeader h) = .ok ↔ (Instr.hdrEnc h).wellFormed = true := by
  simp only [encodeHeader, Instr.wellFormed, Header.wellFormed]
  by_cases hl : 0 < h.payloadLength.toNat <;> cases h.checksum <;> simp [hl]

/-- The header of a payload that fits is written, so the length is all that R140 asks. -/
theorem encodeMessage_ok_iff (cid : Byte) (p : Bytes) :
    statusOf (encodeMessage cid p) = .ok ↔ (Instr.msgEnc cid p).wellFormed = true := by
  have hsize : headerSize p.length + p.length - 4 > 2 ^ 32 - 1 ↔ ¬ p.length ≤ 2 ^ 32 - 14 := by
    unfold headerSize
    split <;> omega
  rw [encodeMessage, Instr.wellFormed, decide_eq_true_eq]
  by_cases hl : p.length ≤ 2 ^ 32 - 14
  · have hh := (encodeHeader_ok_iff (messageHeader cid p)).mpr (messageHeader_wellFormed cid hl)
    cases he : encodeHeader (messageHeader cid p) with
    | ok w => rw [if_neg (hsize.not.mpr (not_not.mpr hl))]; simp only [statusOf_ok, hl]
    | error e => simp [he] at hh
  · rw [if_pos (hsize.mpr hl)]
    simp only [statusOf_error, reduceCtorEq, hl]

/-- R172 asks for a count that fits 32 bits and entries that each are well-formed. -/
theorem encodePeers_ok_iff (ps : List Peer) :
    statusOf (encodePeers ps) = .ok ↔ (Instr.peersEnc ps).wellFormed = true := by
  simp only [encodePeers, Instr.wellFormed, Bool.and_eq_true, decide_eq_true_eq]
  by_cases hn : ps.length < 2 ^ 32
  · rw [if_neg (by omega)]
    by_cases hip : ∀ a ∈ ps, a.ip.length = 4
    · have hwf : ps.all Peer.wellFormed = true := by
        simpa [Peer.wellFormed, Config.addr4Len] using hip
      simp only [encodeEntries_ok hip, hn, hwf, statusOf_ok, and_self]
    · have hbad : ∃ a ∈ ps, a.ip.length ≠ 4 := by simpa using hip
      have hwf : ps.all Peer.wellFormed = false := by
        simpa [Peer.wellFormed, Config.addr4Len] using hbad
      simp [encodeEntries_error hbad, hwf]
  · rw [if_pos (by omega)]
    simp only [statusOf_error, reduceCtorEq, hn, false_and]

/-- A codec command that was asked has the status of its computation. -/
theorem status_of_answers {α : Type} {f : α → Result} {x : Except ErrorCode α} {s t : State}
    {a : Answer} (h : answers f x s = .next t) (ha : t.answer = some a) :
    a.status = statusOf x := by
  rw [answers_eq] at h
  obtain rfl := Host.Outcome.next.inj h
  rw [setAnswer_answer] at ha
  rw [← Option.some.inj ha, answerOf_status]

/-- Settles O56, one encoder at a time. -/
theorem encodersAcceptExactlyWellFormed : Obligations.EncodersAcceptExactlyWellFormed := by
  intro i s t a hi h ha
  rcases hi with ⟨p, rfl⟩ | ⟨hs, rfl⟩ | ⟨hd, rfl⟩ | ⟨cid, p, rfl⟩ | ⟨ps, rfl⟩ <;>
    rw [status_of_answers h ha]
  · exact encodeAddress_ok_iff p
  · exact encodeHandshake_ok_iff hs
  · exact encodeHeader_ok_iff hd
  · exact encodeMessage_ok_iff cid p
  · exact encodePeers_ok_iff ps

/-! ## The payload kinds -/

/-- The payload kind of a decoded message; an error has none. -/
def messageKind (x : Except ErrorCode Message) : Option PayloadKind :=
  (valueOf x).map fun m => m.payload.kind

theorem answerOf_message_payloadKind (x : Except ErrorCode Message) :
    (answerOf .message x).payloadKind = messageKind x := by
  cases x <;> rfl

/-- A frame's event returns the kind that `MSG_DEC` returns for its bytes (R28, R194). -/
theorem frameEvent_payloadKind (b : Bytes) :
    (frameEvent b).payloadKind = messageKind (decodeMessage b) := by
  unfold frameEvent
  cases decodeMessage b <;> rfl

theorem messageKind_of_status_ne_ok {x : Except ErrorCode Message} (h : statusOf x ≠ .ok) :
    messageKind x = none := by
  cases x with
  | ok m => exact absurd rfl h
  | error e => rfl

/-- A header without a payload has the kind None (R141). -/
theorem messageKind_of_short {b : Bytes} (h13 : 13 ≤ b.length) (h17 : b.length < 17) :
    messageKind (decodeMessage b) = some .none := by
  rw [decodeMessage, if_neg (by omega), if_pos h17]
  rfl

/-- What the payload decoder table gives at header byte 8 for the bytes after the header, whose size the
payload length selects (R131, R141, R142). -/
def tableEntry (b : Bytes) : Except ErrorCode Payload :=
  dispatch (byteAt b 8) (b.drop (if rdBe b 9 4 = 0 then 13 else 17))

/-- From 17 bytes on, the status of `MSG_DEC` is that of the table's entry. -/
theorem statusOf_decodeMessage_of_le {b : Bytes} (h : 17 ≤ b.length) :
    statusOf (decodeMessage b) = statusOf (tableEntry b) := by
  rw [decodeMessage_of_le h, ← tableEntry]
  cases tableEntry b <;> rfl

/-- From 17 bytes on, the kind is that of the table's entry. -/
theorem messageKind_of_le {b : Bytes} (h : 17 ≤ b.length) :
    messageKind (decodeMessage b) = (valueOf (tableEntry b)).map Payload.kind := by
  rw [decodeMessage_of_le h, ← tableEntry]
  cases tableEntry b <;> rfl

/-- The kind of each entry of the payload decoder table (R142). -/
theorem dispatch_kind (cid : Byte) (rest : Bytes) :
    (cid = 0x02 → statusOf (dispatch cid rest) = .ok →
      (valueOf (dispatch cid rest)).map Payload.kind = some .peers) ∧
    (cid ≠ 0x02 → rest = [] → (valueOf (dispatch cid rest)).map Payload.kind = some .none) ∧
    (cid ≠ 0x02 → rest ≠ [] →
      (valueOf (dispatch cid rest)).map Payload.kind = some .opaqueBytes) := by
  rcases dispatch_cases cid rest with ⟨hc, _, _, e⟩ | ⟨hc, _, _, e⟩ | ⟨hc, hr, e⟩ | ⟨hc, hr, e⟩ <;>
    rw [e]
  · exact ⟨fun _ _ => rfl, fun h => absurd hc h, fun h => absurd hc h⟩
  · exact ⟨fun _ h => (nomatch h), fun h => absurd hc h, fun h => absurd hc h⟩
  · exact ⟨fun h => absurd h hc, fun _ _ => rfl, fun _ h => absurd hr h⟩
  · exact ⟨fun h => absurd h hc, fun _ h => absurd h hr, fun _ _ => rfl⟩

/-- Settles O60. -/
theorem payloadKindsAreTheListedOnes : Obligations.PayloadKindsAreTheListedOnes := by
  refine ⟨rfl, rfl, rfl, rfl, fun _ => rfl, fun _ => rfl, rfl, rfl, fun _ _ _ => rfl,
    fun _ _ => rfl, fun b s => ⟨answerOf .message (decodeMessage b), answers_eq _ _ _, ?_⟩⟩
  rw [answerOf_message_payloadKind, answerOf_status, frameEvent_payloadKind]
  obtain ⟨hpeers, hnone, hopaque⟩ :=
    dispatch_kind (byteAt b 8) (b.drop (if rdBe b 9 4 = 0 then 13 else 17))
  refine ⟨rfl, messageKind_of_status_ne_ok, messageKind_of_short, fun h => ?_, fun h => ?_,
    fun h => ?_⟩ <;> rw [messageKind_of_le h]
  · rw [statusOf_decodeMessage_of_le h]
    exact hpeers
  · exact hnone
  · exact hopaque

/-! ## Power-on and the bound on BUF -/

theorem powerOn_inv (p : Config.Params) :
    (State.powerOn p).Inv ∧ (State.powerOn p).FaultInv ∧ (State.powerOn p).TargetInRange := by
  simp [State.Inv, State.FaultInv, State.TargetInRange, State.powerOn]

/-- Settles O50: `State.reset` is the power-on of a block with the default parameter. -/
theorem powerOnEstablishesInvariants : Obligations.PowerOnEstablishesInvariants := by
  obtain ⟨hinv, hfault, htarget⟩ := powerOn_inv Config.defaultParams
  exact ⟨powerOn_inv, hinv, hfault, htarget, nofun⟩

theorem exceedsMaxFrame_eq_false_iff {p : Config.Params} {m n : Nat} (h : p.maxFrame = some m) :
    exceedsMaxFrame p n = false ↔ n ≤ m := by
  simp [exceedsMaxFrame, h]

/-- Settles O54: `BUF` is shorter than the length field, or than an accepted frame. -/
theorem bufferStaysBelowMaxFrame : Obligations.BufferStaysBelowMaxFrame := by
  intro s m hinv hf hwf hm
  have h17 : 17 ≤ m := hwf m hm
  obtain ⟨_, hunset, hset⟩ := hinv hf
  by_cases h0 : s.target = 0
  · have := hunset h0
    omega
  · obtain ⟨_, hlt, _, hx⟩ := hset h0
    have := (exceedsMaxFrame_eq_false_iff hm).mp hx
    omega

end Sys2Proof.Machine
end

/-!
PROOFS. The statements about the memory interface (spec/20_memory.md): what a step does with the oldest
pending request, the packet length that is read twice, and the frames a chunk gives back.
-/

namespace Sys2Proof.Machine

/-! ## Codec commands -/

/-- Settles O48: `exec_codec`, with the state update written out. -/
theorem codecCommandsArePure : Obligations.CodecCommandsArePure := by
  intro i hreset hchunk
  obtain ⟨a, h⟩ := exec_codec i hreset hchunk
  exact ⟨a, h⟩

/-! ## The oldest pending request -/

/-- A request that decodes is taken off the list and its instruction run (R48, R52). -/
theorem step_of_decode_ok {s : State} {r : Request} {rest : List Request} {i : Instr}
    (hp : s.pending = r :: rest) (hd : decode r = .ok i) :
    step s = exec i { s with pending := rest } := by
  simp only [step, hp, hd]

/-- A request that does not decode is taken off the list and rejected (R221, R71). -/
theorem step_of_decode_error {s : State} {r : Request} {rest : List Request} {e : Reject}
    (hp : s.pending = r :: rest) (hd : decode r = .error e) :
    step s = execRejected r { s with pending := rest } := by
  simp only [step, hp, hd]

/-- Settles O44. -/
theorem stepRunsTheDecodedInstruction : Obligations.StepRunsTheDecodedInstruction :=
  fun _ _ _ _ hp hd => step_of_decode_ok hp hd

/-- Every instruction ends in a next state, never in a fault or a refusal (R245). -/
theorem exec_total (i : Instr) (s : State) : ∃ t, exec i s = .next t := by
  by_cases hr : i = .reset
  · subst hr
    exact ⟨_, exec_reset s⟩
  by_cases hc : ∃ c, i = .rxChunk c
  · obtain ⟨c, rfl⟩ := hc
    rcases execRxChunk_cases c s with ⟨_, e⟩ | ⟨_, _, e⟩ | ⟨_, _, _, e⟩ | ⟨_, _, _, e⟩ <;>
      exact ⟨_, e⟩
  · obtain ⟨a, e⟩ := exec_codec i hr (not_exists.mp hc)
    exact ⟨_, e s⟩

/-- An instruction answers and leaves the parameters and the pending requests alone. -/
theorem exec_answers (i : Instr) (s : State) :
    ∃ t, exec i s = .next t ∧ t.pending = s.pending ∧ t.params = s.params ∧
      t.answer.isSome = true := by
  obtain ⟨t, h⟩ := exec_total i s
  obtain ⟨_, _, _, _, hparams, hpending⟩ := modeAndFaultHaveOnlyTheirWriters i s t h
  obtain ⟨u, a, rfl, _⟩ := exec_effect h
  exact ⟨_, h, hpending, hparams, rfl⟩

/-- A step with a request pending takes it off the list and answers it (R52). -/
theorem step_serves {s : State} {r : Request} {rest : List Request} (hp : s.pending = r :: rest) :
    ∃ t, step s = .next t ∧ t.pending = rest ∧ t.params = s.params ∧ t.answer.isSome = true := by
  cases hd : decode r with
  | ok i =>
    rw [step_of_decode_ok hp hd]
    exact exec_answers i { s with pending := rest }
  | error e =>
    obtain ⟨a, ha⟩ := execRejected_eq r { s with pending := rest }
    rw [step_of_decode_error hp hd]
    exact ⟨_, ha, rfl, rfl, rfl⟩

/-- A run goes on from the state its first step leaves. -/
theorem run_succ {s t : State} (k : Nat) (h : step s = .next t) :
    Host.Core.run Sys2Proof.core (k + 1) s = Host.Core.run Sys2Proof.core k t := by
  have hcore : Sys2Proof.core.step s = .next t := h
  simp only [Host.Core.run, hcore]

/-- Settles O59, by induction on the pending requests: each step serves one of them and keeps the
invariants. -/
theorem pendingRequestsAreAllServed : Obligations.PendingRequestsAreAllServed := by
  intro s hs
  induction hp : s.pending generalizing s with
  | nil => exact ⟨s, rfl, hp, rfl, hs, fun h => absurd rfl h⟩
  | cons r rest ih =>
    obtain ⟨u, hstep, hpending, hparams, hanswer⟩ := step_serves hp
    obtain ⟨t, hrun, hdone, htparams, htinv, htanswer⟩ :=
      ih u (inv_keptByCommands.step hs hstep) hpending
    refine ⟨t, ?_, hdone, htparams.trans hparams, htinv, fun _ => ?_⟩
    · rw [List.length_cons, run_succ _ hstep, hrun]
    · cases rest with
      | cons r' rest' => exact htanswer (List.cons_ne_nil _ _)
      | nil =>
        obtain rfl : u = t := Host.Outcome.next.inj hrun
        exact hanswer

/-! ## The packet length -/

/-- A u32 field holds the value of its four bytes (R43). -/
theorem u32At_toNat (b : Bytes) (off : Nat) : (u32At b off).toNat = rdBe b off 4 := by
  rw [u32At, BitVec.toNat_ofNat, Nat.mod_eq_of_lt (by simpa using rdBe_lt b off 4)]

/-- A decoded message has the header that stands at the start of its bytes (R131, R141). -/
theorem decodeMessage_header {b : Bytes} {m : Message} (h : decodeMessage b = .ok m) :
    ∃ ck, m.header = headerAt b ck := by
  by_cases h17 : 17 ≤ b.length
  · rw [decodeMessage_of_le h17] at h
    split at h
    · cases h
    · cases h
      exact ⟨_, rfl⟩
  · by_cases h13 : b.length < 13
    · rw [decodeMessage, if_pos h13] at h
      cases h
    · rw [decodeMessage, if_neg h13, if_pos (by omega)] at h
      cases h
      exact ⟨_, rfl⟩

/-- `MSG_DEC` answers a message only when its bytes decode to that message (R141). -/
theorem decodeMessage_of_exec {b : Bytes} {m : Message} {s : State}
    (h : exec (.msgDec b) s = .next { s with answer := some ⟨.ok, some (.message m)⟩ }) :
    decodeMessage b = .ok m := by
  have ha : answerOf .message (decodeMessage b) = ⟨.ok, some (.message m)⟩ :=
    Option.some.inj (congrArg State.answer
      (Host.Outcome.next.inj ((answers_eq .message (decodeMessage b) s).symm.trans h)))
  rcases answerOf_cases .message (decodeMessage b) with ⟨v, hv, e⟩ | ⟨_, _, e⟩ <;> rw [e] at ha
  · cases ha
    exact hv
  · cases ha

/-- Settles O37: the header's field and the reassembler read the same four bytes. -/
theorem packetLengthReadTwiceAgrees : Obligations.PacketLengthReadTwiceAgrees := by
  intro f m s h
  obtain ⟨ck, hm⟩ := decodeMessage_header (decodeMessage_of_exec h)
  calc m.header.packetLength.toNat + 4
      = (u32At f 0).toNat + 4 := by rw [hm]; rfl
    _ = frameLength f := by rw [u32At_toNat, frameLength]

/-! ## The frames a chunk gives back -/

/-- The bytes up to the length the first four announce, when they have all arrived and the length is
accepted, are a complete frame (R53, R68). -/
theorem completeFrame_take {p : Config.Params} {b : Bytes} (hlen : frameLength b ≤ b.length)
    (hx : exceedsMaxFrame p (frameLength b) = false) :
    CompleteFrame p (b.take (frameLength b)) := by
  obtain ⟨h4, _⟩ := frameLength_range b
  have hl : (b.take (frameLength b)).length = frameLength b := List.length_take_of_le hlen
  have hsame : frameLength (b.take (frameLength b)) = frameLength b := by
    have h := frameLength_append (b.drop (frameLength b)) (h4.trans_eq hl.symm)
    rwa [List.take_append_drop, eq_comm] at h
  exact ⟨h4.trans_eq hl.symm, hl.trans hsame.symm, by rwa [hl]⟩

/-- The `TARGET` a drain goes on with is the accepted length of the frame at the head of `BUF`, whether it
was set before or has just been read (R25, R193). -/
theorem State.Draining.target_accepted {u : State} (h : u.Draining)
    (hx : u.target = 0 → 4 ≤ u.buf.length ∧
      exceedsMaxFrame u.params (readPrefix u).target.toNat = false) :
    (readPrefix u).target.toNat = frameLength u.buf ∧
      exceedsMaxFrame u.params (frameLength u.buf) = false := by
  by_cases h0 : u.target = 0
  · have hlen := readPrefix_target_of_unset h0
    exact ⟨hlen, hlen ▸ (hx h0).2⟩
  · obtain ⟨_, hlen, hacc⟩ := h.target h0
    rw [readPrefix_of_set h0]
    exact ⟨hlen, hlen ▸ hacc⟩

/-- Every frame of a drain is complete and no longer than `MAX_FRAME` (R53, R194). -/
theorem rxLoop_completeFrames {fuel : Nat} {s : State} {f : Bytes} (hs : s.Draining)
    (hf : f ∈ framesOf (rxLoop fuel s).2) : CompleteFrame s.params f := by
  induction fuel generalizing s with
  | zero => simp [rxLoop, framesOf] at hf
  | succ fuel ih =>
    rcases rxLoop_cases fuel s with ⟨_, _, e⟩ | ⟨_, _, _, e⟩ | ⟨_, _, e⟩ | ⟨hx, hl, e⟩ <;>
      rw [e] at hf
    · cases hf
    · cases hf
    · cases hf
    · obtain ⟨htarget, hacc⟩ := hs.target_accepted hx
      rcases List.mem_cons.mp hf with rfl | hf
      · rw [htarget] at hl ⊢
        rw [bufSlice, byteSlice, readPrefix_buf]
        exact completeFrame_take hl hacc
      · simpa using ih hs.slice hf

/-- The handshake chunk gives back no frame (R192). -/
theorem framesOf_handshakeEvent (c : Bytes) : framesOf [handshakeEvent c] = [] := by
  unfold handshakeEvent
  cases decodeHandshake c <;> rfl

/-- Every frame of an `RX_CHUNK` answer comes from a drain. -/
theorem framed_of_frame_mem {c : Bytes} {s t : State} {es : List Event} {f : Bytes}
    (h : exec (.rxChunk c) s = .next t) (ha : t.answer = some ⟨.ok, some (.events es)⟩)
    (hf : f ∈ framesOf es) : s.rxMode = .framed ∧ es = (framedStep c s).2 := by
  change execRxChunk c s = .next t at h
  rcases execRxChunk_cases c s with ⟨_, e⟩ | ⟨_, _, e⟩ | ⟨_, _, _, e⟩ | ⟨_, _, hm, e⟩ <;>
    rw [e] at h <;> obtain rfl := Host.Outcome.next.inj h <;> cases ha
  · cases hf
  · rw [framesOf_handshakeEvent] at hf
    cases hf
  · exact ⟨hm, rfl⟩

/-- Settles O36: the invariant makes the chunk start a drain, and a drain gives back complete frames. -/
theorem slicedFramesRespectMaxFrame : Obligations.SlicedFramesRespectMaxFrame := by
  intro c s t es f hinv hfault h ha hf
  obtain ⟨hm, rfl⟩ := framed_of_frame_mem h ha hf
  obtain ⟨_, hlen, hx⟩ := rxLoop_completeFrames (.of_append (c := c) hfault hm hinv) hf
  exact ⟨hlen, fun m hmax => (exceedsMaxFrame_eq_false_iff hmax).mp hx⟩

end Sys2Proof.Machine

/-!
PROOFS. The statements about the encoding (spec/30_encoding.md): the two maps of bytes to instructions as
tables, what an answer holds, the entries of the payload decoder table, and the expansions of R76.
-/

namespace Sys2Proof.Machine

/-! ## The fields of an opcode byte (R61) -/

/-- The byte with the given unit, direction and width code, and the reserved bit clear. -/
def opByte (unit : Nat) (dir : Bool) (width : Nat) : Byte :=
  BitVec.ofNat 8 (16 * unit + 8 * dir.toNat + width)

/-- A byte whose reserved bit is clear is the byte of its three other fields. -/
theorem eq_opByte_of_not_reserved {op : Byte} (h : opReserved op = false) :
    op = opByte (opUnit op) (opDir op) (opWidth op) := by
  have hlt := op.isLt
  apply BitVec.eq_of_toNat_eq
  simp only [opReserved, opByte, opUnit, opDir, opWidth, BitVec.getLsbD, BitVec.extractLsb'_toNat,
    BitVec.toNat_ofNat, Nat.testBit_eq_decide_div_mod_eq, Nat.shiftRight_eq_div_pow,
    decide_eq_false_iff_not, Bool.toNat, Bool.cond_decide] at h ⊢
  split <;> omega

theorem decodeSingle_ok {op : Byte} {w : Nat} {i j : Instr} (h : decodeSingle op w i = .ok j) :
    opDir op = false ∧ opWidth op = w ∧ j = i := by
  unfold decodeSingle at h
  split at h
  · cases h
  · split at h
    · cases h
    · cases h
      simp_all

theorem decodePair_ok {op : Byte} {enc dec j : Instr} (h : decodePair op enc dec = .ok j) :
    opWidth op = 0 ∧ ((opDir op = false ∧ j = enc) ∨ (opDir op = true ∧ j = dec)) := by
  unfold decodePair at h
  split at h
  · cases h
  · split at h <;> cases h <;> simp_all

theorem decodeInteger_ok {op : Byte} {a : Operands} {j : Instr} (h : decodeInteger op a = .ok j) :
    (opWidth op = 0 ∧ j = if opDir op then .beDec1 a.bytes else .beEnc1 a.u8) ∨
    (opWidth op = 1 ∧ j = if opDir op then .beDec4 a.bytes else .beEnc4 a.u32) ∨
    (opWidth op = 2 ∧ j = if opDir op then .beDec8 a.bytes else .beEnc8 a.u64) := by
  unfold decodeInteger at h
  split at h <;> cases h
  · exact .inl ⟨‹_›, rfl⟩
  · exact .inr (.inl ⟨‹_›, rfl⟩)
  · exact .inr (.inr ⟨‹_›, rfl⟩)

/-! ## The two maps as tables (R70, R72) -/

/-- The rows of a port's map: the command map (R72) with the operands each row names, and the content-id
map (R70) with the bytes after the header. -/
def decodeTable : Port → Operands → List (Byte × Instr)
  | .command, a =>
    [(0x01, .reset),
     (0x10, .beEnc1 a.u8), (0x11, .beEnc4 a.u32), (0x12, .beEnc8 a.u64),
     (0x18, .beDec1 a.bytes), (0x19, .beDec4 a.bytes), (0x1A, .beDec8 a.bytes),
     (0x20, .cksum a.bytes),
     (0x30, .addrEnc a.peer), (0x38, .addrDec a.bytes),
     (0x40, .hsEnc a.handshake), (0x48, .hsDec a.bytes),
     (0x50, .hdrEnc a.header), (0x58, .hdrDec a.bytes),
     (0x60, .msgEnc a.u8 a.bytes), (0x68, .msgDec a.bytes),
     (0x70, .peersEnc a.peers), (0x78, .peersDec a.bytes),
     (0x80, .rxChunk a.bytes)]
  | .contentId, a =>
    [(0x01, .cidGetPeers a.bytes), (0x02, .cidPeers a.bytes), (0x15, .cidSignatures a.bytes),
     (0x16, .cidGetBlock a.bytes), (0x17, .cidBlock a.bytes), (0x18, .cidScore a.bytes),
     (0x19, .cidTransaction a.bytes), (0x1A, .cidInvMicroblock a.bytes),
     (0x1B, .cidMicroblockRequest a.bytes), (0x1C, .cidMicroblock a.bytes),
     (0x64, .cidCheckpoint a.bytes)]

/-- The bit fields select rows of the command map only: the unit selects the codec, the direction and the
width code one of its commands. -/
theorem mem_decodeTable_of_decodeCommand {op : Byte} {a : Operands} {i : Instr}
    (h : decodeCommand op a = .ok i) : (op, i) ∈ decodeTable .command a := by
  unfold decodeCommand at h
  split at h
  · cases h
  next hr =>
    rw [eq_opByte_of_not_reserved (op := op) (by simpa using hr)]
    split at h
    case h_2 hu =>
      rcases decodeInteger_ok h with ⟨hw, rfl⟩ | ⟨hw, rfl⟩ | ⟨hw, rfl⟩ <;> cases opDir op <;>
        simp [hu, hw, opByte, decodeTable]
    case h_1 hu | h_3 hu | h_9 hu =>
      obtain ⟨hd, hw, rfl⟩ := decodeSingle_ok h
      simp [hu, hd, hw, opByte, decodeTable]
    case h_10 => cases h
    all_goals
      next hu =>
        obtain ⟨hw, ⟨hd, rfl⟩ | ⟨hd, rfl⟩⟩ := decodePair_ok h <;>
          simp [hu, hd, hw, opByte, decodeTable]

/-- Only the content-ids that R70 lists decode. -/
theorem mem_decodeTable_of_decodeContentId {cid : Byte} {a : Operands} {i : Instr}
    (h : decodeContentId cid a.bytes = .ok i) : (cid, i) ∈ decodeTable .contentId a := by
  unfold decodeContentId at h
  have hcid : cid = BitVec.ofNat 8 cid.toNat := by simp
  split at h <;> cases h <;> next hn => rw [hcid, hn]; simp [decodeTable]

/-- A request decodes to an instruction just when its byte and the instruction stand in its port's map,
with the request's operands (R70, R72). -/
theorem decode_ok_iff {r : Request} {i : Instr} :
    decode r = .ok i ↔ (r.op, i) ∈ decodeTable r.port r.args := by
  obtain ⟨port, op, a⟩ := r
  constructor
  · intro h
    cases port with
    | command => exact mem_decodeTable_of_decodeCommand h
    | contentId => exact mem_decodeTable_of_decodeContentId h
  · intro h
    have hrow : ∀ row ∈ decodeTable port a, decode ⟨port, row.1, a⟩ = .ok row.2 := by
      cases port with
      | command =>
        simp [decodeTable, decode, decodeCommand, decodeSingle, decodePair, decodeInteger,
          opReserved, opUnit, opWidth, opDir]
      | contentId => simp [decodeTable, decode, decodeContentId]
    exact hrow _ h

/-- The encoder writes the port and the byte of the instruction's row (R70, R72). -/
theorem encode_of_mem_decodeTable {port : Port} {a : Operands} {op : Byte} {i : Instr}
    (h : (op, i) ∈ decodeTable port a) :
    (encode i).port = port ∧ (encode i).op = op := by
  have hrow : ∀ row ∈ decodeTable port a, (encode row.2).port = port ∧ (encode row.2).op = row.1 := by
    cases port <;> simp [decodeTable, encode, commandRequest, contentIdRequest]
  exact hrow _ h

/-- Every instruction's row stands in the table of its encoding's port and operands. -/
theorem decode_encode (i : Instr) : decode (encode i) = .ok i := by
  refine decode_ok_iff.mpr ?_
  cases i <;> simp [encode, commandRequest, contentIdRequest, decodeTable]

/-- Settles O42: an instruction's encoding is its row of the table, and the table is what is decoded. -/
theorem decodeEncodeAgree : Obligations.DecodeEncodeAgree := by
  refine ⟨decode_encode, fun r i h => ?_, fun i j h => ?_⟩
  · obtain ⟨hport, hop⟩ := encode_of_mem_decodeTable (decode_ok_iff.mp h)
    have hr : (⟨(encode i).port, (encode i).op, r.args⟩ : Request) = r := by rw [hport, hop]
    exact ⟨hport, hop, hr.symm ▸ h⟩
  · exact Except.ok.inj <|
      calc Except.ok i = decode (encode i) := (decode_encode i).symm
        _ = decode (encode j) := by rw [h]
        _ = .ok j := decode_encode j

/-- A byte of the command port decodes just when it is one of the 19 opcodes (R73). -/
theorem decode_command_iff (op : Byte) (a : Operands) :
    (∃ i, decode ⟨.command, op, a⟩ = .ok i) ↔ op ∈ commandOpcodes := by
  have hfst : commandOpcodes = (decodeTable .command a).map Prod.fst := rfl
  simp only [decode_ok_iff, hfst, List.mem_map, Prod.exists, exists_and_right, exists_eq_right]

/-- Every opcode has the reserved bit clear and a unit below 9 (R61, R73). -/
theorem commandOpcodes_fields :
    ∀ op ∈ commandOpcodes, op.getLsbD 2 = false ∧ op.toNat / 16 < 9 := by
  decide

/-- Settles O41. -/
theorem onlyTheCommandMapDecodes : Obligations.OnlyTheCommandMapDecodes := by
  refine ⟨decode_command_iff, by decide +kernel, by decide, by decide, by decide, fun op h hop => ?_⟩
  obtain ⟨hreserved, hunit⟩ := commandOpcodes_fields op hop
  rcases h with h | h
  · rw [hreserved] at h
    cases h
  · omega

/-- Settles O43: each of the ten is a row of the command map. -/
theorem sampleOpcodesDecode : Obligations.SampleOpcodesDecode := by
  intro a
  simp [decode_ok_iff, decodeTable]

/-! ## What an answer holds (R242) -/

/-- The outcome is a state with an answer that has a result just when its status is `OK`. -/
def AnswersWithResult (o : Host.Outcome State Fault Refusal) : Prop :=
  ∃ t a, o = .next t ∧ t.answer = some a ∧ (a.result.isSome ↔ a.status = .ok)

theorem returns_answersWithResult (r : Result) (s : State) :
    AnswersWithResult (returns (some r) s) :=
  ⟨_, _, returns_eq _ _, rfl, by simp⟩

theorem raises_answersWithResult (e : ErrorCode) (s : State) : AnswersWithResult (raises e s) :=
  ⟨_, _, raises_eq _ _, rfl, by simp⟩

theorem answers_answersWithResult {α : Type} (f : α → Result) (x : Except ErrorCode α) (s : State) :
    AnswersWithResult (answers f x s) := by
  cases x with
  | ok v => exact returns_answersWithResult (f v) s
  | error e => exact raises_answersWithResult e s

theorem execRxChunk_answersWithResult (c : Bytes) (s : State) :
    AnswersWithResult (execRxChunk c s) := by
  rcases execRxChunk_cases c s with ⟨_, e⟩ | ⟨_, _, e⟩ | ⟨_, _, _, e⟩ | ⟨_, _, _, e⟩ <;>
    exact ⟨_, _, e, rfl, by simp⟩

/-- Every command but `RESET`, which lists no result (R220), answers a result just when it ends with
`OK`. -/
theorem exec_answersWithResult {i : Instr} (h : i ≠ .reset) (s : State) :
    AnswersWithResult (exec i s) := by
  cases i with
  | reset => exact absurd rfl h
  | rxChunk c => exact execRxChunk_answersWithResult c s
  | beEnc1 _ | beEnc4 _ | beEnc8 _ | cksum _ => exact returns_answersWithResult _ s
  | _ => exact answers_answersWithResult _ _ s

theorem execRejected_answersWithResult (r : Request) (s : State) :
    AnswersWithResult (execRejected r s) := by
  unfold execRejected
  cases r.port with
  | command => exact raises_answersWithResult _ s
  | contentId => exact answers_answersWithResult _ _ s

/-- A step whose request is not `RESET` answers a result just when it answers `OK`. -/
theorem step_answersWithResult {s : State} {r : Request} {rest : List Request}
    (hp : s.pending = r :: rest) (hr : decode r ≠ .ok .reset) : AnswersWithResult (step s) := by
  cases hd : decode r with
  | ok i =>
    rw [step_of_decode_ok hp hd]
    exact exec_answersWithResult (fun hi => hr (by rw [hd, hi])) _
  | error e =>
    rw [step_of_decode_error hp hd]
    exact execRejected_answersWithResult r _

/-- Settles O46: an idle step keeps the state, and a request taken is answered, `RESET` without a
result. -/
theorem everyRequestIsAnswered : Obligations.EveryRequestIsAnswered := by
  intro s
  cases hp : s.pending with
  | nil => exact ⟨s, by simp only [step, hp], hp, nofun⟩
  | cons r rest =>
    obtain ⟨t, hstep, hpending, -, -⟩ := step_serves hp
    refine ⟨t, hstep, hpending, fun r' rest' hcons => ?_⟩
    obtain ⟨rfl, rfl⟩ := List.cons.inj hcons
    by_cases hr : decode r = .ok .reset
    · rw [step_of_decode_ok hp hr, exec_reset] at hstep
      obtain rfl := Host.Outcome.next.inj hstep
      exact ⟨_, rfl, fun _ => rfl, fun hn => absurd hr hn⟩
    · obtain ⟨u, a, hu, ha, hresult⟩ := step_answersWithResult hp hr
      obtain rfl := Host.Outcome.next.inj (hstep.symm.trans hu)
      exact ⟨a, ha, fun h => absurd h hr, fun _ => hresult⟩

/-! ## The entries of the payload decoder table (R70, R71, R142) -/

/-- The entry of a content-id without a decoder gives the rest unread. -/
theorem runEntry_of_ne_peers {cid : Byte} (hc : cid ≠ 0x02) (rest : Bytes) (s : State) :
    (rest = [] → runEntry cid rest s = .next (s.setAnswer ⟨.ok, some (.payload .none)⟩)) ∧
    (rest ≠ [] →
      runEntry cid rest s = .next (s.setAnswer ⟨.ok, some (.payload (.opaqueBytes rest))⟩)) := by
  rw [runEntry, answers_eq]
  rcases dispatch_cases cid rest with ⟨h, _⟩ | ⟨h, _⟩ | ⟨_, hr, e⟩ | ⟨_, hr, e⟩
  · exact absurd h hc
  · exact absurd h hc
  · rw [e]
    exact ⟨fun _ => rfl, fun h => absurd hr h⟩
  · rw [e]
    exact ⟨fun h => absurd h hr, fun _ => rfl⟩

/-- The entry of `peers` ends as `PEERS_DEC` does. -/
theorem dispatch_peers (rest : Bytes) : dispatch 0x02 rest = (decodePeers rest).map .peers := by
  rw [dispatch, if_pos rfl]
  cases decodePeers rest <;> rfl

/-- Settles O24: ten entries have a content-id without a decoder, and the one of `peers` is decided by
what `decodePeers` can answer. -/
theorem contentIdEntriesDecodePayloads : Obligations.ContentIdEntriesDecodePayloads := by
  intro rest s
  have hpeers : exec (.cidPeers rest) s =
      .next (s.setAnswer (answerOf .payload ((decodePeers rest).map .peers))) := by
    rw [← dispatch_peers]
    exact answers_eq _ _ s
  have hdec : exec (.peersDec rest) s = .next (s.setAnswer (answerOf .peers (decodePeers rest))) :=
    answers_eq _ _ s
  refine ⟨?_, ?_⟩
  · simp only [List.forall_mem_cons, List.not_mem_nil, false_implies, implies_true, and_true]
    refine ⟨?_, ?_, ?_, ?_, ?_, ?_, ?_, ?_, ?_, ?_⟩ <;>
      exact runEntry_of_ne_peers (by decide) rest s
  · rw [hpeers, hdec]
    rcases decodePeers_cases rest with ⟨hl, e⟩ | ⟨h4, hl, e⟩ | ⟨h4, hl, e⟩ <;> rw [e]
    · exact ⟨fun _ => rfl, fun _ => by omega, fun _ => by omega⟩
    · exact ⟨fun _ => rfl, fun _ _ => rfl, fun _ => by omega⟩
    · exact ⟨fun _ => by omega, fun _ => by omega, fun _ _ => ⟨_, rfl, rfl, entriesAt_length _ _⟩⟩

/-! ## A Peers payload is read back (R174) -/

/-- The bytes of a peer list's entries, one after another (R66). -/
def entryBytes (ps : List Peer) : Bytes := ps.flatMap fun a => a.ip ++ be32Bits a.port

theorem entryBytes_cons (a : Peer) (ps : List Peer) :
    entryBytes (a :: ps) = a.ip ++ (be32Bits a.port ++ entryBytes ps) := by
  simp [entryBytes]

theorem entryBytes_length {ps : List Peer} (h : ∀ a ∈ ps, a.ip.length = 4) :
    (entryBytes ps).length = 8 * ps.length := by
  induction ps with
  | nil => rfl
  | cons a ps ih =>
    obtain ⟨ha, hps⟩ := List.forall_mem_cons.mp h
    simp only [entryBytes_cons, List.length_append, ha, be32Bits_length, ih hps, List.length_cons]
    omega

theorem peerAt_entry {a : Peer} (h : a.ip.length = 4) (t : Bytes) :
    peerAt (a.ip ++ (be32Bits a.port ++ t)) = a := by
  rw [peerAt, u32At_be32Bits a.port t h, byteSlice, List.drop_zero, List.take_left' h]

theorem entriesAt_entryBytes {ps : List Peer} (h : ∀ a ∈ ps, a.ip.length = 4) (t : Bytes) :
    entriesAt ps.length (entryBytes ps ++ t) = ps := by
  induction ps with
  | nil => rfl
  | cons a ps ih =>
    obtain ⟨ha, hps⟩ := List.forall_mem_cons.mp h
    have hdrop : (a.ip ++ (be32Bits a.port ++ (entryBytes ps ++ t))).drop 8 = entryBytes ps ++ t := by
      rw [← List.append_assoc]
      exact List.drop_left' (by simp [ha, be32Bits_length])
    simp only [List.length_cons, entriesAt, entryBytes_cons, List.append_assoc, peerAt_entry ha,
      hdrop, ih hps]

theorem encodePeers_eq {ps : List Peer} (hn : ps.length < 2 ^ 32) (h : ∀ a ∈ ps, a.ip.length = 4) :
    encodePeers ps = .ok (beBytes 4 ps.length ++ entryBytes ps) := by
  rw [encodePeers, if_neg (by omega), encodeEntries_ok h]
  rfl

/-- Encodable peers are read back, whatever follows them (R174). -/
theorem decodePeers_encoded {ps : List Peer} (hn : ps.length < 2 ^ 32)
    (h : ∀ a ∈ ps, a.ip.length = 4) (t : Bytes) :
    decodePeers (beBytes 4 ps.length ++ entryBytes ps ++ t) = .ok ps := by
  rw [List.append_assoc]
  have hcount : rdBe (beBytes 4 ps.length ++ (entryBytes ps ++ t)) 0 4 = ps.length := by
    rw [rdBe_eq, List.drop_zero, List.take_left' (beBytes_length 4 _), beValue_beBytes]
    exact Nat.mod_eq_of_lt (by omega)
  have hlen : (beBytes 4 ps.length ++ (entryBytes ps ++ t)).length =
      4 + 8 * ps.length + t.length := by
    simp only [List.length_append, beBytes_length, entryBytes_length h]
    omega
  rcases decodePeers_cases (beBytes 4 ps.length ++ (entryBytes ps ++ t)) with
    ⟨hl, _⟩ | ⟨_, hl, _⟩ | ⟨_, _, e⟩
  · omega
  · omega
  · rw [e, hcount, List.drop_left' (beBytes_length 4 _), entriesAt_entryBytes h]

/-! ## A frame with a payload is read back (R144) -/

/-- The 13 bytes every header has (R64). -/
def fixedBytes (h : Header) : Bytes :=
  be32Bits h.packetLength ++ quadBytes h.magic ++ be8Bits h.contentId ++ be32Bits h.payloadLength

theorem fixedBytes_length (h : Header) : (fixedBytes h).length = 13 := by
  simp [fixedBytes, quadBytes, be32Bits_length, be8Bits_eq]

/-- A well-formed header is written with its checksum, if it has one (R130). -/
theorem encodeHeader_eq {h : Header} (hw : h.wellFormed = true) :
    encodeHeader h = .ok (fixedBytes h ++ checksumBytes h.checksum) := by
  cases hc : h.checksum with
  | none =>
    have hl : ¬ 0 < h.payloadLength.toNat := by simpa [Header.wellFormed, hc] using hw
    simp [encodeHeader, hc, hl, fixedBytes, checksumBytes]
  | some q =>
    have hl : 0 < h.payloadLength.toNat := by simpa [Header.wellFormed, hc] using hw
    simp [encodeHeader, hc, hl, fixedBytes]

/-- A frame is the header built from the payload, then the payload (R140). -/
theorem encodeMessage_eq (cid : Byte) {p : Bytes} (hl : p.length ≤ 2 ^ 32 - 14) :
    encodeMessage cid p = .ok (fixedBytes (messageHeader cid p) ++
      checksumBytes (messageHeader cid p).checksum ++ p) := by
  have hsize : ¬ headerSize p.length + p.length - 4 > 2 ^ 32 - 1 := by
    unfold headerSize
    split <;> omega
  rw [encodeMessage, if_neg hsize, encodeHeader_eq (messageHeader_wellFormed cid hl)]

/-- What stands after `n` bytes is read at its own offset from there. -/
theorem byteAt_append_add {a : Bytes} {n : Nat} (h : a.length = n) (b : Bytes) (i : Nat) :
    byteAt (a ++ b) (n + i) = byteAt b i := by
  rw [byteAt, List.getD_append_right _ _ _ _ (by omega), h, Nat.add_sub_cancel_left, byteAt]

theorem byteAt_be8Bits {a : Bytes} {n : Nat} (v : Byte) (t : Bytes) (h : a.length = n) :
    byteAt (a ++ (be8Bits v ++ t)) n = v := by
  rw [be8Bits_eq]
  exact byteAt_append_add h _ 0

theorem quadAt_quadBytes {a : Bytes} {n : Nat} (q : Quad) (t : Bytes) (h : a.length = n) :
    quadAt (a ++ (quadBytes q ++ t)) n = q := by
  simp only [quadAt, byteAt_append_add h, quadBytes]
  rw [← Nat.add_zero n, byteAt_append_add h]
  rfl

/-- The 13 fixed bytes are read back as the header's fields, whatever follows them (R131). -/
theorem headerAt_fixedBytes (h : Header) (ck : Option Quad) (t : Bytes) :
    headerAt (fixedBytes h ++ t) ck = { h with checksum := ck } := by
  have hquad : (quadBytes h.magic).length = 4 := rfl
  have hlength : u32At (fixedBytes h ++ t) 0 = h.packetLength := by
    simpa [fixedBytes] using u32At_be32Bits (a := []) h.packetLength
      (quadBytes h.magic ++ (be8Bits h.contentId ++ (be32Bits h.payloadLength ++ t))) rfl
  have hmagic : quadAt (fixedBytes h ++ t) 4 = h.magic := by
    simpa [fixedBytes] using quadAt_quadBytes (a := be32Bits h.packetLength) h.magic
      (be8Bits h.contentId ++ (be32Bits h.payloadLength ++ t)) (be32Bits_length _)
  have hcid : byteAt (fixedBytes h ++ t) 8 = h.contentId := by
    simpa [fixedBytes] using byteAt_be8Bits (a := be32Bits h.packetLength ++ quadBytes h.magic)
      h.contentId (be32Bits h.payloadLength ++ t) (by simp [be32Bits_length, hquad])
  have hpayload : u32At (fixedBytes h ++ t) 9 = h.payloadLength := by
    simpa [fixedBytes] using u32At_be32Bits
      (a := be32Bits h.packetLength ++ quadBytes h.magic ++ be8Bits h.contentId)
      h.payloadLength t (by simp [be32Bits_length, be8Bits_eq, hquad])
  rw [headerAt, hlength, hmagic, hcid, hpayload]

/-- A frame with a payload is read back as its header and what the payload decoder table gives for the
payload (R144). -/
theorem decodeMessage_frame (cid : Byte) {p : Bytes} (hp : p ≠ []) (hl : p.length ≤ 2 ^ 32 - 14) :
    decodeMessage (fixedBytes (messageHeader cid p) ++
        checksumBytes (messageHeader cid p).checksum ++ p) =
      (dispatch cid p).map fun payload => ⟨messageHeader cid p, payload⟩ := by
  have hpos : 0 < p.length := List.length_pos_of_ne_nil hp
  have hck : (messageHeader cid p).checksum = some (checksum p) := if_neg (by omega)
  rw [hck, checksumBytes, List.append_assoc]
  set h := messageHeader cid p with hh
  set f := fixedBytes h ++ (quadBytes (checksum p) ++ p) with hf
  have hheader : headerAt f (some (checksum p)) = h := by
    rw [hf, headerAt_fixedBytes, ← hck]
  have hcid : byteAt f 8 = cid := congrArg Header.contentId hheader
  have hquad : quadAt f 13 = checksum p := quadAt_quadBytes _ _ (fixedBytes_length h)
  have hn : rdBe f 9 4 = p.length := by
    rw [← u32At_toNat, show u32At f 9 = h.payloadLength from congrArg Header.payloadLength hheader]
    exact Nat.mod_eq_of_lt (by omega)
  have hdrop : f.drop 17 = p := by
    rw [hf, ← List.append_assoc]
    exact List.drop_left' (by rw [List.length_append, fixedBytes_length]; rfl)
  have hlen : 17 ≤ f.length := by
    simp only [hf, List.length_append, fixedBytes_length, quadBytes, List.length_cons,
      List.length_nil]
    omega
  rw [decodeMessage_of_le hlen, hcid, hn, if_neg (by omega), if_neg (by omega), hdrop, hquad,
    hheader]
  cases dispatch cid p <;> rfl

/-! ## The expansions of the pseudo-commands (R76) -/

theorem onOk_setAnswer_ok (r : Option Result) (s : State)
    (k : Option Result → State → Host.Outcome State Fault Refusal) :
    onOk (.next (s.setAnswer ⟨.ok, r⟩)) k = k r (s.setAnswer ⟨.ok, r⟩) := rfl

theorem onOk_setAnswer_error (e : ErrorCode) (s : State)
    (k : Option Result → State → Host.Outcome State Fault Refusal) :
    onOk (.next (s.setAnswer ⟨.error e, none⟩)) k = .next (s.setAnswer ⟨.error e, none⟩) := rfl

/-- After `PEERS_ENC` ended with `OK`, its bytes are the payload of `MSG_ENC 0x02`. -/
theorem runPseudo_msgEncPeers_ok {ps : List Peer} {p : Bytes} {s : State}
    (h : exec (.peersEnc ps) s = .next (s.setAnswer ⟨.ok, some (.bytes p)⟩)) :
    runPseudo (.msgEncPeers ps) s = exec (.msgEnc 0x02 p) s := by
  rw [runPseudo, h, onOk_setAnswer_ok]
  exact (answers_eq _ _ _).trans (answers_eq _ _ s).symm

/-- An error of `PEERS_ENC` ends the expansion with its answer. -/
theorem runPseudo_msgEncPeers_error {ps : List Peer} {e : ErrorCode} {s : State}
    (h : exec (.peersEnc ps) s = .next (s.setAnswer ⟨.error e, none⟩)) :
    runPseudo (.msgEncPeers ps) s = .next (s.setAnswer ⟨.error e, none⟩) := by
  rw [runPseudo, h, onOk_setAnswer_error]

/-- A codec command whose computation ends with a value answers it. -/
theorem answers_of_ok {α : Type} {f : α → Result} {x : Except ErrorCode α} {v : α} (h : x = .ok v)
    (s : State) : answers f x s = .next (s.setAnswer ⟨.ok, some (f v)⟩) := by
  rw [h]
  rfl

/-- Encodable peers that fit a frame are framed, and `MSG_DEC` reads the frame back as them (R144). -/
theorem runPseudo_msgEncPeers_roundTrip {ps : List Peer} (hn : 4 + 8 * ps.length ≤ 2 ^ 32 - 14)
    (hps : ∀ a ∈ ps, a.ip.length = 4) (s : State) : ∃ f h,
      runPseudo (.msgEncPeers ps) s = .next (s.setAnswer ⟨.ok, some (.bytes f)⟩) ∧
      exec (.msgDec f) s = .next (s.setAnswer ⟨.ok, some (.message ⟨h, .peers ps⟩)⟩) := by
  have hcount : ps.length < 2 ^ 32 := by omega
  set p := beBytes 4 ps.length ++ entryBytes ps with hp
  have hlen : p.length = 4 + 8 * ps.length := by
    rw [hp, List.length_append, beBytes_length, entryBytes_length hps]
  have hne : p ≠ [] := List.ne_nil_of_length_pos (by omega)
  have hread : decodePeers p = .ok ps := by
    simpa using decodePeers_encoded hcount hps []
  have hframe := encodeMessage_eq 0x02 (p := p) (by omega)
  have hdec := decodeMessage_frame 0x02 hne (by omega)
  rw [dispatch_peers, hread] at hdec
  refine ⟨_, _, ?_, answers_of_ok hdec s⟩
  rw [runPseudo_msgEncPeers_ok (answers_of_ok (encodePeers_eq hcount hps) s)]
  exact answers_of_ok hframe s

/-- Settles O57: the last two expansions are commands by definition. -/
theorem pseudoCommandsExpand : Obligations.PseudoCommandsExpand :=
  fun _ _ s => ⟨fun _ h => runPseudo_msgEncPeers_ok h, fun _ h => runPseudo_msgEncPeers_error h,
    rfl, rfl, fun hn hps => runPseudo_msgEncPeers_roundTrip hn hps s⟩

end Sys2Proof.Machine

/-!
PROOFS. The statements about the integer codec (spec/40_integer_codec.md): the bytes of a word, the value
of the leading bytes, and that the two functions undo each other, each proved once for every width.
-/

namespace Sys2Proof.Machine

/-! ## The bytes of a word (R100) -/

/-- The byte that `be_n` writes for the weight `256^n` is bits `8n+7 .. 8n` of the word. -/
theorem ofNat_div_pow_eq_extractLsb' {w : Nat} (n : Nat) (v : BitVec w) :
    BitVec.ofNat 8 (v.toNat / 256 ^ n) = v.extractLsb' (8 * n) 8 := by
  apply BitVec.eq_of_toNat_eq
  rw [BitVec.toNat_ofNat, BitVec.extractLsb'_toNat, Nat.shiftRight_eq_div_pow, pow_mul]
  rfl

theorem be32Bits_eq (v : U32) : be32Bits v =
    [v.extractLsb' 24 8, v.extractLsb' 16 8, v.extractLsb' 8 8, v.extractLsb' 0 8] := by
  simp only [be32Bits, beBytes, ofNat_div_pow_eq_extractLsb', Nat.reduceMul]

theorem be64Bits_eq (v : U64) : be64Bits v =
    [v.extractLsb' 56 8, v.extractLsb' 48 8, v.extractLsb' 40 8, v.extractLsb' 32 8,
     v.extractLsb' 24 8, v.extractLsb' 16 8, v.extractLsb' 8 8, v.extractLsb' 0 8] := by
  simp only [be64Bits, beBytes, ofNat_div_pow_eq_extractLsb', Nat.reduceMul]

/-- Settles O1: the three encoders return `be_n` of their operand. -/
theorem beEncodeAnswersBigEndianBytes : Obligations.BeEncodeAnswersBigEndianBytes := by
  intro v1 v4 v8 s
  rw [← be8Bits_eq, ← be32Bits_eq, ← be64Bits_eq]
  exact ⟨returns_eq _ s, returns_eq _ s, returns_eq _ s⟩

/-! ## The value of the leading bytes (R101) -/

/-- Only the first `n` bytes are read, whatever follows them. -/
theorem rdBe_prefix {a : Bytes} {n : Nat} (h : a.length = n) (t : Bytes) :
    rdBe (a ++ t) 0 n = beValue a := by
  rw [rdBe_eq, List.drop_zero, List.take_left' h]

theorem rdBe_whole {b : Bytes} {n : Nat} (h : b.length = n) : rdBe b 0 n = beValue b := by
  simpa using rdBe_prefix h []

/-- A byte after a word is the least significant byte of the longer word. -/
theorem toNat_append_byte {w : Nat} (v : BitVec w) (x : Byte) :
    (v ++ x).toNat = v.toNat * 256 + x.toNat := by
  rw [BitVec.toNat_append, ← Nat.shiftLeft_add_eq_or_of_lt x.isLt, Nat.shiftLeft_eq]

theorem beValue_one (x0 : Byte) : beValue [x0] = x0.toNat := by
  simp [beValue]

theorem beValue_four (x0 x1 x2 x3 : Byte) :
    beValue [x0, x1, x2, x3] = (x0 ++ x1 ++ x2 ++ x3).toNat := by
  simp [beValue, toNat_append_byte]

theorem beValue_eight (x0 x1 x2 x3 x4 x5 x6 x7 : Byte) :
    beValue [x0, x1, x2, x3, x4, x5, x6, x7] =
      (x0 ++ x1 ++ x2 ++ x3 ++ x4 ++ x5 ++ x6 ++ x7).toNat := by
  simp [beValue, toNat_append_byte]

/-! ## What a decode command answers (R105 to R107) -/

theorem decodeBe_short {n : Nat} {b : Bytes} (h : b.length < n) :
    decodeBe n b = .error .messageTooShort := if_pos h

theorem decodeBe_prefix {n : Nat} {a : Bytes} (h : a.length = n) (t : Bytes) :
    decodeBe n (a ++ t) = .ok (beValue a) := by
  rw [decodeBe, if_neg (by simp [h]), rdBe_prefix h]

/-- A codec command whose computation ends with an error raises it. -/
theorem answers_of_error {α : Type} {f : α → Result} {x : Except ErrorCode α} {e : ErrorCode}
    (h : x = .error e) (s : State) : answers f x s = .next (s.setAnswer ⟨.error e, none⟩) := by
  rw [h]
  rfl

/-- A decode command of `n` bytes raises `MessageTooShort` on fewer. -/
theorem answers_decodeBe_short {n : Nat} {f : Nat → Result} {b : Bytes} (h : b.length < n)
    (s : State) :
    answers f (decodeBe n b) s = .next (s.setAnswer ⟨.error .messageTooShort, none⟩) :=
  answers_of_error (decodeBe_short h) s

/-- A decode command of `n` bytes returns the word whose bytes stand first. -/
theorem answers_decodeBe_prefix {n : Nat} {f : BitVec (8 * n) → Result} {a : Bytes}
    {v : BitVec (8 * n)} (ha : a.length = n) (hv : beValue a = v.toNat) (t : Bytes) (s : State) :
    answers (fun k => f (BitVec.ofNat (8 * n) k)) (decodeBe n (a ++ t)) s =
      .next (s.setAnswer ⟨.ok, some (f v)⟩) := by
  rw [answers_of_ok (decodeBe_prefix ha t), hv, BitVec.ofNat_toNat, BitVec.setWidth_eq]

/-- Settles O2: a short operand raises, and any other is its leading bytes and a rest. -/
theorem beDecodeReadsLeadingBytes : Obligations.BeDecodeReadsLeadingBytes := by
  intro s
  refine ⟨fun _ h => answers_decodeBe_short h s, ?_, fun _ h => answers_decodeBe_short h s, ?_,
    fun _ h => answers_decodeBe_short h s, ?_⟩
  · intro x0 t
    exact answers_decodeBe_prefix (n := 1) rfl (beValue_one x0) t s
  · intro x0 x1 x2 x3 t
    exact answers_decodeBe_prefix (n := 4) rfl (beValue_four x0 x1 x2 x3) t s
  · intro x0 x1 x2 x3 x4 x5 x6 x7 t
    exact answers_decodeBe_prefix (n := 8) rfl (beValue_eight x0 x1 x2 x3 x4 x5 x6 x7) t s

/-! ## Writing and reading undo each other (R108) -/

theorem two_pow_eight_mul (n : Nat) : 2 ^ (8 * n) = 256 ^ n := pow_mul 2 8 n

theorem rdBe_beBytes {n v : Nat} (h : v < 2 ^ (8 * n)) : rdBe (beBytes n v) 0 n = v := by
  rw [rdBe_whole (beBytes_length n v), beValue_beBytes, ← two_pow_eight_mul, Nat.mod_eq_of_lt h]

theorem beBytes_rdBe {n : Nat} {b : Bytes} (h : b.length = n) : beBytes n (rdBe b 0 n) = b := by
  rw [rdBe_whole h, ← h, beBytes_beValue]

/-- A decode command of `n` bytes gives back the word that `be_n` wrote. -/
theorem answers_decodeBe_beBytes {n : Nat} {f : BitVec (8 * n) → Result} (v : BitVec (8 * n))
    (s : State) :
    answers (fun k => f (BitVec.ofNat (8 * n) k)) (decodeBe n (beBytes n v.toNat)) s =
      .next (s.setAnswer ⟨.ok, some (f v)⟩) := by
  have hlen := beBytes_length n v.toNat
  have hv : beValue (beBytes n v.toNat) = v.toNat := by
    rw [← rdBe_whole hlen, rdBe_beBytes v.isLt]
  simpa using answers_decodeBe_prefix hlen hv [] s

/-- Settles O3: both laws hold at every width, and the commands are `be_n` and the read of a prefix. -/
theorem bigEndianRoundTrip : Obligations.BigEndianRoundTrip := by
  refine ⟨?_, ?_, ?_, ?_, ?_⟩
  · exact fun n _ v hv => ⟨rdBe_beBytes hv, beBytes_length n v⟩
  · exact fun n _ b hb => beBytes_rdBe hb
  · exact fun v s => ⟨be8Bits v, returns_eq _ s, answers_decodeBe_beBytes (n := 1) v s⟩
  · exact fun v s => ⟨be32Bits v, returns_eq _ s, answers_decodeBe_beBytes (n := 4) v s⟩
  · exact fun v s => ⟨be64Bits v, returns_eq _ s, answers_decodeBe_beBytes (n := 8) v s⟩

end Sys2Proof.Machine

/-!
PROOFS. The statements about the handshake (spec/41_handshake.md): the record that is written, the record
that is read by its offsets, the bytes a read takes off the front, and the one error that nothing raises.
-/

namespace Sys2Proof.Machine

/-! ## The record that is written (R110) -/

/-- What the declSize field and the address after it can be (R110). -/
theorem encodeDeclAddress_ok {o : Option DeclAddress} {d : Bytes}
    (h : encodeDeclAddress o = .ok d) :
    (o = none ∧ d = beBytes 4 0) ∨
    (∃ a, o = some a ∧ a.ip.length = 4 ∧ a.port.toNat ≤ 65535 ∧
      d = beBytes 4 8 ++ a.ip ++ be32Bits a.port) := by
  cases o with
  | none => exact .inl ⟨rfl, (Except.ok.inj h).symm⟩
  | some a =>
    rw [encodeDeclAddress] at h
    split at h
    · cases h
    next hip =>
      split at h
      · cases h
      next hport =>
        exact .inr ⟨a, rfl, not_not.mp hip, not_lt.mp hport, (Except.ok.inj h).symm⟩

theorem encodeDeclAddress_unsupported {a : DeclAddress} (h : a.ip.length ≠ 4) :
    encodeDeclAddress (some a) = .error .unsupportedAddress := if_pos h

theorem encodeDeclAddress_invalidPort {a : DeclAddress} (hip : a.ip.length = 4)
    (hport : 65535 < a.port.toNat) : encodeDeclAddress (some a) = .error .invalidPort := by
  rw [encodeDeclAddress, Config.addr4Len, if_neg (not_not.mpr hip)]
  exact if_pos hport

theorem encodeDeclAddress_some {a : DeclAddress} (hip : a.ip.length = 4)
    (hport : a.port.toNat ≤ 65535) :
    encodeDeclAddress (some a) = .ok (beBytes 4 8 ++ a.ip ++ be32Bits a.port) := by
  rw [encodeDeclAddress, Config.addr4Len, if_neg (not_not.mpr hip)]
  exact if_neg (not_lt.mpr hport)

/-- The record's fields in wire order, with the bytes `d` from declSize up to the timestamp (R63). -/
def handshakeBytes (h : Handshake) (d : Bytes) : Bytes :=
  beBytes 1 h.appName.length ++ (h.appName ++ (be32Bits h.version.major ++
    (be32Bits h.version.minor ++ (be32Bits h.version.patch ++ (beBytes 1 h.nodeName.length ++
    (h.nodeName ++ (be64Bits h.nonce ++ (d ++ be64Bits h.timestamp))))))))

theorem handshakeBytes_length (h : Handshake) (d : Bytes) :
    (handshakeBytes h d).length = 30 + h.appName.length + h.nodeName.length + d.length := by
  simp only [handshakeBytes, List.length_append, beBytes_length, be32Bits_length, be64Bits_length]
  omega

/-- Everything `encodeHandshake` can answer (R110). -/
theorem encodeHandshake_cases (h : Handshake) :
    ((255 < h.appName.length ∨ 255 < h.nodeName.length) ∧
      encodeHandshake h = .error .nameTooLong) ∨
    (h.appName.length ≤ 255 ∧ h.nodeName.length ≤ 255 ∧
      encodeHandshake h = (encodeDeclAddress h.declAddress).map (handshakeBytes h)) := by
  simp only [encodeHandshake, Config.nameMax, gt_iff_lt]
  split
  · exact .inl ⟨.inl ‹_›, rfl⟩
  · split
    · exact .inl ⟨.inr ‹_›, rfl⟩
    · refine .inr ⟨by omega, by omega, ?_⟩
      cases encodeDeclAddress h.declAddress with
      | error e => rfl
      | ok d => simp [Except.map, handshakeBytes, encodeName]

/-- With names that fit, the declared address decides (R110). -/
theorem encodeHandshake_of_names {h : Handshake} (happ : h.appName.length ≤ 255)
    (hnode : h.nodeName.length ≤ 255) :
    encodeHandshake h = (encodeDeclAddress h.declAddress).map (handshakeBytes h) := by
  rcases encodeHandshake_cases h with ⟨hlong, _⟩ | ⟨_, _, e⟩
  · omega
  · exact e

/-- A handshake that is written has names that fit, and its bytes are the record's (R110). -/
theorem encodeHandshake_ok {h : Handshake} {w : Bytes} (hw : encodeHandshake h = .ok w) :
    h.appName.length ≤ 255 ∧ h.nodeName.length ≤ 255 ∧
      ∃ d, encodeDeclAddress h.declAddress = .ok d ∧ w = handshakeBytes h d := by
  rcases encodeHandshake_cases h with ⟨_, e⟩ | ⟨happ, hnode, e⟩ <;> rw [e] at hw
  · cases hw
  · cases hd : encodeDeclAddress h.declAddress with
    | error e => rw [hd] at hw; cases hw
    | ok d => rw [hd] at hw; exact ⟨happ, hnode, d, rfl, (Except.ok.inj hw).symm⟩

theorem encodeHandshake_error {h : Handshake} {e : ErrorCode} (happ : h.appName.length ≤ 255)
    (hnode : h.nodeName.length ≤ 255) (hd : encodeDeclAddress h.declAddress = .error e) :
    encodeHandshake h = .error e := by
  rw [encodeHandshake_of_names happ hnode, hd]
  rfl

/-- Settles O12: the checks in order, and the record when none of them fails. -/
theorem hsEncChecksThenWritesRecord : Obligations.HsEncChecksThenWritesRecord := by
  intro h s
  refine ⟨fun hlong => ?_, fun happ hnode => ⟨fun a ha hip => ?_, fun a ha hip hport => ?_,
    fun d hd => ?_⟩⟩
  · rcases encodeHandshake_cases h with ⟨_, e⟩ | ⟨_, _, _⟩
    · exact answers_of_error e s
    · omega
  · exact answers_of_error
      (encodeHandshake_error happ hnode (ha ▸ encodeDeclAddress_unsupported hip)) s
  · exact answers_of_error
      (encodeHandshake_error happ hnode (ha ▸ encodeDeclAddress_invalidPort hip hport)) s
  · have henc : encodeDeclAddress h.declAddress = .ok d := by
      rcases hd with ⟨ha, rfl⟩ | ⟨a, ha, hip, hport, rfl⟩
      · rw [ha]; rfl
      · rw [ha]; exact encodeDeclAddress_some hip hport
    refine ⟨handshakeBytes h d, by simp [handshakeBytes, beBytes], handshakeBytes_length h d,
      answers_of_ok ?_ s⟩
    rw [encodeHandshake_of_names happ hnode, henc]
    rfl

/-! ## The record that is read by its offsets (R111) -/

/-- R111's `need`: a computation that runs only when `b` has its first `stop` bytes. -/
def needing {α : Type} (b : Bytes) (stop : Nat) (x : Except ErrorCode α) : Except ErrorCode α :=
  if b.length < stop then .error .messageTooShort else x

theorem needing_of_le {α : Type} {b : Bytes} {stop : Nat} (h : stop ≤ b.length)
    (x : Except ErrorCode α) : needing b stop x = x := if_neg (by omega)

theorem needing_of_lt {α : Type} {b : Bytes} {stop : Nat} (h : b.length < stop)
    (x : Except ErrorCode α) : needing b stop x = .error .messageTooShort := if_pos h

/-- The later of two needs is the one that counts. -/
theorem needing_needing {α : Type} {b : Bytes} {i j : Nat} (h : i ≤ j) (x : Except ErrorCode α) :
    needing b i (needing b j x) = needing b j x := by
  by_cases hi : b.length < i
  · rw [needing_of_lt hi, needing_of_lt (by omega)]
  · exact needing_of_le (by omega) _

/-- A read of `k` bytes is the first of those that go up to `stop`. -/
theorem takeBytes_bind_needing {α : Type} {b : Bytes} {off k next stop : Nat}
    {f : Bytes × Bytes → Except ErrorCode α} {y : Except ErrorCode α}
    (hnext : off + k = next) (hoff : off ≤ b.length) (hstop : next ≤ stop)
    (hf : next ≤ b.length → f (byteSlice b off next, b.drop next) = needing b stop y) :
    (takeBytes k (b.drop off) >>= f) = needing b stop y := by
  subst hnext
  by_cases h : off + k ≤ b.length
  · rw [takeBytes_of_le (by rw [List.length_drop]; omega), ← hf h, byteSlice_eq, List.drop_drop]
    rfl
  · rw [takeBytes_short (by rw [List.length_drop]; omega), needing_of_lt (by omega)]
    rfl

/-- A read of an integer is a read of its bytes. -/
theorem takeBe_bind {α : Type} (n : Nat) (rest : Bytes) (f : Nat × Bytes → Except ErrorCode α) :
    (takeBe n rest >>= f) = (takeBytes n rest >>= fun r => f (beValue r.1, r.2)) := by
  rw [takeBe]
  cases takeBytes n rest <;> rfl

theorem takeBe_bind_needing {α : Type} {b : Bytes} {off n next stop : Nat}
    {f : Nat × Bytes → Except ErrorCode α} {y : Except ErrorCode α}
    (hnext : off + n = next) (hoff : off ≤ b.length) (hstop : next ≤ stop)
    (hf : next ≤ b.length → f (rdBe b off n, b.drop next) = needing b stop y) :
    (takeBe n (b.drop off) >>= f) = needing b stop y := by
  rw [takeBe_bind]
  refine takeBytes_bind_needing hnext hoff hstop fun h => ?_
  rw [← hf h, rdBe, hnext]

/-- A one-byte integer is its byte, past the end of the string too. -/
theorem rdBe_one (b : Bytes) (i : Nat) : rdBe b i 1 = (byteAt b i).toNat := by
  rw [rdBe_eq]
  by_cases h : i < b.length
  · exact beValue_at_one h
  · rw [List.drop_eq_nil_of_le (by omega), byteAt, List.getD_eq_default _ _ (by omega)]
    rfl

/-- `A`: the length of the application name. -/
def appLenAt (b : Bytes) : Nat := (byteAt b 0).toNat

/-- `N`: the length of the node name. -/
def nodeLenAt (b : Bytes) : Nat := (byteAt b (13 + appLenAt b)).toNat

/-- `22 + A + N`, the offset of declSize (R63). -/
def declOffset (b : Bytes) : Nat := 22 + appLenAt b + nodeLenAt b

/-- `D`: the declSize. -/
def declSizeAt (b : Bytes) : Nat := rdBe b (declOffset b) 4

/-- The port of the declared address. -/
def declPortAt (b : Bytes) : Nat := rdBe b (declOffset b + declSizeAt b) 4

/-- The declared address, when declSize announces one. -/
def declAddressAt (b : Bytes) : Option DeclAddress :=
  if declSizeAt b = 0 then none
  else some ⟨byteSlice b (26 + appLenAt b + nodeLenAt b) (declOffset b + declSizeAt b),
    BitVec.ofNat 32 (declPortAt b)⟩

/-- The record by the offsets of its fields, with the given declared address and timestamp. -/
def recordAt (b : Bytes) (decl : Option DeclAddress) (timestamp : Nat) : Handshake where
  appName := byteSlice b 1 (1 + appLenAt b)
  version := ⟨u32At b (1 + appLenAt b), u32At b (5 + appLenAt b), u32At b (9 + appLenAt b)⟩
  nodeName := byteSlice b (14 + appLenAt b) (14 + appLenAt b + nodeLenAt b)
  nonce := BitVec.ofNat 64 (rdBe b (14 + appLenAt b + nodeLenAt b) 8)
  declAddress := decl
  timestamp := BitVec.ofNat 64 timestamp

/-- What stands after a declared address, the timestamp. -/
def parseTimestamp (b : Bytes) (r : Option DeclAddress × Bytes) :
    Except ErrorCode (Handshake × Bytes) := do
  let (timestamp, rest) ← takeBe 8 r.2
  return (recordAt b r.1 timestamp, rest)

/-- What stands after declSize: the declared address, then the timestamp. -/
def parseAfterDeclSize (b : Bytes) : Except ErrorCode (Handshake × Bytes) :=
  decodeDeclAddress (declSizeAt b) (b.drop (26 + appLenAt b + nodeLenAt b)) >>= parseTimestamp b

/-- The nine fields up to declSize are read at their offsets, or the string is too short for them. -/
theorem parseHandshake_eq_needing (b : Bytes) :
    parseHandshake b = needing b (26 + appLenAt b + nodeLenAt b) (parseAfterDeclSize b) := by
  refine takeBe_bind_needing (off := 0) (next := 1) rfl (by omega) (by omega) fun _ => ?_
  rw [rdBe_one, ← appLenAt]
  refine takeBytes_bind_needing (next := 1 + appLenAt b) rfl (by omega) (by omega) fun _ => ?_
  refine takeBe_bind_needing (next := 5 + appLenAt b) (by omega) (by omega) (by omega) fun _ => ?_
  refine takeBe_bind_needing (next := 9 + appLenAt b) (by omega) (by omega) (by omega) fun _ => ?_
  refine takeBe_bind_needing (next := 13 + appLenAt b) (by omega) (by omega) (by omega) fun _ => ?_
  refine takeBe_bind_needing (next := 14 + appLenAt b) (by omega) (by omega) (by omega) fun _ => ?_
  rw [rdBe_one, ← nodeLenAt]
  refine takeBytes_bind_needing (next := 14 + appLenAt b + nodeLenAt b) rfl (by omega) (by omega)
    fun _ => ?_
  refine takeBe_bind_needing (next := declOffset b) (by rw [declOffset]; omega) (by omega)
    (by rw [declOffset]; omega) fun _ => ?_
  refine takeBe_bind_needing (next := 26 + appLenAt b + nodeLenAt b) (by rw [declOffset]; omega)
    (by omega) le_rfl fun h => ?_
  rw [needing_of_le (by omega)]
  rfl

theorem addrOk_of_length {ip : Bytes} (h : ip.length = 4 ∨ ip.length = 16) : addrOk ip = true := by
  simpa [addrOk, Config.addr4Len, Config.addr16Len] using h

/-- An announced address is 4 or 16 bytes and the port, so only the port can be refused (R111, R112). -/
theorem decodeDeclAddress_announced {b : Bytes} {off size portOff next : Nat}
    (hsize : size = 8 ∨ size = 20) (hport : off + (size - 4) = portOff) (hnext : portOff + 4 = next)
    (hoff : off ≤ b.length) :
    decodeDeclAddress size (b.drop off) = needing b next
      (if 65535 < rdBe b portOff 4 then .error .invalidPort
       else .ok (some ⟨byteSlice b off portOff, BitVec.ofNat 32 (rdBe b portOff 4)⟩, b.drop next)) := by
  rw [decodeDeclAddress, if_neg (by omega), if_neg (by omega)]
  refine takeBytes_bind_needing hport hoff (by omega) fun _ => ?_
  refine takeBe_bind_needing hnext (by omega) le_rfl fun h => ?_
  have hip : (byteSlice b off portOff).length = 4 ∨ (byteSlice b off portOff).length = 16 := by
    simp only [byteSlice, List.length_take, List.length_drop]
    omega
  rw [needing_of_le (by omega)]
  simp only [addrOk_of_length hip, not_true_eq_false, if_false]
  rfl

/-- What `HS_DEC` gives for a string that has the fields up to declSize (R111). -/
def handshakeTail (b : Bytes) : Except ErrorCode (Handshake × Nat) :=
  let a := appLenAt b
  let n := nodeLenAt b
  let d := declSizeAt b
  if d ≠ 0 ∧ d ≠ 8 ∧ d ≠ 20 then .error .invalidAddressLength
  else if d ≠ 0 ∧ b.length < 26 + a + n + d then .error .messageTooShort
  else if d ≠ 0 ∧ 65535 < declPortAt b then .error .invalidPort
  else needing b (34 + a + n + d)
    (.ok (recordAt b (declAddressAt b) (rdBe b (26 + a + n + d) 8), 34 + a + n + d))

/-- What the parser gives with the size of what it has taken off the front of `b` (R111). -/
def withConsumed (b : Bytes) (x : Except ErrorCode (Handshake × Bytes)) :
    Except ErrorCode (Handshake × Nat) :=
  x.map fun r => (r.1, b.length - r.2.length)

theorem decodeHandshake_eq_withConsumed (b : Bytes) :
    decodeHandshake b = withConsumed b (parseHandshake b) := by
  rw [decodeHandshake]
  cases parseHandshake b <;> rfl

/-- The timestamp at `off` ends the record. -/
theorem withConsumed_parseTimestamp {b : Bytes} {off next : Nat} (decl : Option DeclAddress)
    (hnext : off + 8 = next) (hoff : off ≤ b.length) :
    withConsumed b (parseTimestamp b (decl, b.drop off)) =
      needing b next (.ok (recordAt b decl (rdBe b off 8), next)) := by
  have hread : parseTimestamp b (decl, b.drop off) =
      needing b next (.ok (recordAt b decl (rdBe b off 8), b.drop next)) :=
    takeBe_bind_needing hnext hoff le_rfl fun h => (needing_of_le h _).symm
  rw [hread]
  by_cases hb : b.length < next
  · rw [needing_of_lt hb, needing_of_lt hb]
    rfl
  · rw [needing_of_le (by omega), needing_of_le (by omega)]
    have hsize : b.length - (b.drop next).length = next := by
      rw [List.length_drop]
      omega
    rw [withConsumed, Except.map, hsize]

/-- After the fields up to declSize, the parser follows the layout: no address, an address of 4 or 16
bytes, or a declSize that announces none. -/
theorem withConsumed_parseAfterDeclSize {b : Bytes}
    (hb : 26 + appLenAt b + nodeLenAt b ≤ b.length) :
    withConsumed b (parseAfterDeclSize b) = handshakeTail b := by
  rw [parseAfterDeclSize, handshakeTail]
  by_cases h0 : declSizeAt b = 0
  · have hdecl : decodeDeclAddress (declSizeAt b) (b.drop (26 + appLenAt b + nodeLenAt b)) =
        .ok (none, b.drop (26 + appLenAt b + nodeLenAt b)) := by
      rw [h0]
      rfl
    rw [hdecl, if_neg (by omega), if_neg (by omega), if_neg (by omega), declAddressAt, if_pos h0, h0]
    exact withConsumed_parseTimestamp none (by omega) hb
  by_cases hsize : declSizeAt b = 8 ∨ declSizeAt b = 20
  · have hlisted : ¬ (declSizeAt b ≠ 0 ∧ declSizeAt b ≠ 8 ∧ declSizeAt b ≠ 20) := by omega
    rw [decodeDeclAddress_announced hsize (portOff := declOffset b + declSizeAt b)
      (next := 26 + appLenAt b + nodeLenAt b + declSizeAt b) (by rw [declOffset]; omega)
      (by rw [declOffset]; omega) hb, ← declPortAt, if_neg hlisted]
    by_cases hlen : b.length < 26 + appLenAt b + nodeLenAt b + declSizeAt b
    · rw [needing_of_lt hlen, if_pos ⟨h0, hlen⟩]
      rfl
    rw [needing_of_le (by omega)]
    by_cases hport : 65535 < declPortAt b
    · rw [if_pos hport, if_neg (by omega), if_pos ⟨h0, hport⟩]
      rfl
    · rw [if_neg hport, if_neg (by omega), if_neg (by omega), declAddressAt, if_neg h0]
      exact withConsumed_parseTimestamp _ (by omega) (by omega)
  · rw [decodeDeclAddress, if_pos (by omega), if_pos (by omega)]
    rfl

/-- `HS_DEC` is the chain of R111's tests over the record's layout. -/
theorem decodeHandshake_eq (b : Bytes) :
    decodeHandshake b = needing b (26 + appLenAt b + nodeLenAt b) (handshakeTail b) := by
  rw [decodeHandshake_eq_withConsumed, parseHandshake_eq_needing]
  by_cases hb : b.length < 26 + appLenAt b + nodeLenAt b
  · rw [needing_of_lt hb, needing_of_lt hb]
    rfl
  · rw [needing_of_le (by omega), needing_of_le (by omega)]
    exact withConsumed_parseAfterDeclSize (by omega)

/-- The errors that `HS_DEC` can answer, and the record of the layout (R111). -/
theorem decodeHandshake_cases (b : Bytes) :
    decodeHandshake b = .error .messageTooShort ∨
    decodeHandshake b = .error .invalidAddressLength ∨
    decodeHandshake b = .error .invalidPort ∨
    ∃ decl timestamp n, decodeHandshake b = .ok (recordAt b decl timestamp, n) := by
  simp only [decodeHandshake_eq, needing, handshakeTail]
  split_ifs
  · exact .inl rfl
  · exact .inr (.inl rfl)
  · exact .inl rfl
  · exact .inr (.inr (.inl rfl))
  · exact .inl rfl
  · exact .inr (.inr (.inr ⟨_, _, _, rfl⟩))

/-- Settles O13: the two shorter needs of the chain are part of the third. -/
theorem hsDecFollowsRecordLayout : Obligations.HsDecFollowsRecordLayout := by
  intro b s
  have hchain : decodeHandshake b = needing b 1 (needing b (14 + appLenAt b)
      (needing b (26 + appLenAt b + nodeLenAt b) (handshakeTail b))) := by
    rw [needing_needing (by omega), needing_needing (by omega), decodeHandshake_eq]
  refine (answers_eq _ _ s).trans ?_
  simp only [hchain, needing, handshakeTail, apply_ite (answerOf _)]
  rfl

/-! ## The bytes a read takes off the front (R111, R113) -/

/-- `p` takes exactly the bytes `used` off the front of its operand and gives `v`: it does so whatever
follows them, and it finds them too short when they are cut anywhere. -/
structure Reads {α : Type} (p : Bytes → Except ErrorCode (α × Bytes)) (used : Bytes) (v : α) :
    Prop where
  whole : ∀ t, p (used ++ t) = .ok (v, t)
  cut : ∀ k < used.length, p (used.take k) = .error .messageTooShort

theorem Reads.takeBytes {n : Nat} {a : Bytes} (h : a.length = n) :
    Reads (takeBytes n) a a where
  whole := fun t => takeBytes_append a t h
  cut := fun k hk => takeBytes_short (by rw [List.length_take]; omega)

theorem Reads.takeBe {n v : Nat} (h : v < 256 ^ n) : Reads (takeBe n) (beBytes n v) v where
  whole := fun t => by rw [takeBe_append, Nat.mod_eq_of_lt h]
  cut := fun k hk => takeBe_short (by rw [List.length_take]; rw [beBytes_length] at *; omega)

/-- The end of a record takes nothing. -/
theorem Reads.pure {α : Type} (v : α) : Reads (fun rest => .ok (v, rest)) [] v where
  whole := fun _ => rfl
  cut := fun k hk => absurd hk (Nat.not_lt_zero k)

/-- Two reads one after the other: a cut falls in the bytes of the first, or in those of the second. -/
theorem Reads.bind {α β : Type} {p : Bytes → Except ErrorCode (α × Bytes)}
    {f : α × Bytes → Except ErrorCode (β × Bytes)} {u u' : Bytes} {v : α} {w : β}
    (hp : Reads p u v) (hf : Reads (fun rest => f (v, rest)) u' w) :
    Reads (fun b => p b >>= f) (u ++ u') w where
  whole := fun t => by
    rw [List.append_assoc, hp.whole]
    exact hf.whole t
  cut := fun k hk => by
    rw [List.length_append] at hk
    by_cases h : k < u.length
    · rw [List.take_append_of_le_length (by omega), hp.cut k h]
      rfl
    · rw [List.take_append, List.take_of_length_le (by omega), hp.whole]
      exact hf.cut _ (by omega)

/-- The bytes from declSize on are the declSize and what its reader takes. -/
theorem encodeDeclAddress_reads {o : Option DeclAddress} {d : Bytes}
    (h : encodeDeclAddress o = .ok d) :
    ∃ size body, size < 256 ^ 4 ∧ d = beBytes 4 size ++ body ∧
      Reads (decodeDeclAddress size) body o := by
  rcases encodeDeclAddress_ok h with ⟨rfl, rfl⟩ | ⟨a, rfl, hip, hport, rfl⟩
  · exact ⟨0, [], by omega, by simp, Reads.pure none⟩
  · refine ⟨8, a.ip ++ (be32Bits a.port ++ []), by omega, by simp, ?_⟩
    refine (Reads.takeBytes hip).bind ((Reads.takeBe a.port.isLt).bind ?_)
    simpa [addrOk_of_length (.inl hip), Config.portMax, not_lt.mpr hport] using Reads.pure (some a)

/-- The parser takes exactly the bytes that the encoder wrote, and gives the handshake back. -/
theorem parseHandshake_reads {h : Handshake} {w : Bytes} (hw : encodeHandshake h = .ok w) :
    Reads parseHandshake w h := by
  obtain ⟨happ, hnode, d, hd, rfl⟩ := encodeHandshake_ok hw
  obtain ⟨size, body, hsize, rfl, hdecl⟩ := encodeDeclAddress_reads hd
  have hbytes : handshakeBytes h (beBytes 4 size ++ body) =
      beBytes 1 h.appName.length ++ (h.appName ++ (be32Bits h.version.major ++
        (be32Bits h.version.minor ++ (be32Bits h.version.patch ++ (beBytes 1 h.nodeName.length ++
        (h.nodeName ++ (be64Bits h.nonce ++ (beBytes 4 size ++ (body ++
        (be64Bits h.timestamp ++ [])))))))))) := by
    simp [handshakeBytes]
  rw [hbytes]
  refine (Reads.takeBe (by omega)).bind ?_
  refine (Reads.takeBytes rfl).bind ?_
  refine (Reads.takeBe h.version.major.isLt).bind ?_
  refine (Reads.takeBe h.version.minor.isLt).bind ?_
  refine (Reads.takeBe h.version.patch.isLt).bind ?_
  refine (Reads.takeBe (by omega)).bind ?_
  refine (Reads.takeBytes rfl).bind ?_
  refine (Reads.takeBe h.nonce.isLt).bind ?_
  refine (Reads.takeBe hsize).bind ?_
  refine hdecl.bind ?_
  refine (Reads.takeBe h.timestamp.isLt).bind ?_
  simp only [BitVec.ofNat_toNat, BitVec.setWidth_eq]
  exact Reads.pure h

/-- A codec command answers `OK` only with a value of its computation. -/
theorem ok_of_answers {α : Type} {f : α → Result} {x : Except ErrorCode α} {r : Result} {s : State}
    (h : answers f x s = .next { s with answer := some ⟨.ok, some r⟩ }) :
    ∃ v, x = .ok v ∧ f v = r := by
  have ha : answerOf f x = ⟨.ok, some r⟩ := Option.some.inj (congrArg State.answer
    (Host.Outcome.next.inj ((answers_eq f x s).symm.trans h)))
  rcases answerOf_cases f x with ⟨v, hv, e⟩ | ⟨_, _, e⟩ <;> rw [e] at ha <;> cases ha
  exact ⟨v, hv, rfl⟩

/-- Settles O14: the parser finds any cut of the bytes it takes too short. -/
theorem hsDecOfTruncatedHandshakeIsTooShort : Obligations.HsDecOfTruncatedHandshakeIsTooShort := by
  intro h w k s hw hk
  obtain ⟨w', henc, hr⟩ := ok_of_answers hw
  cases hr
  refine answers_of_error ?_ s
  rw [decodeHandshake, (parseHandshake_reads henc).cut k hk]

/-- An encodable handshake is written. -/
theorem encodeHandshake_of_encodable {h : Handshake} (hh : h.encodable = true) :
    ∃ w, encodeHandshake h = .ok w := by
  have hstatus := (encodeHandshake_ok_iff h).mpr hh
  cases hw : encodeHandshake h with
  | ok w => exact ⟨w, rfl⟩
  | error e => rw [hw] at hstatus; cases hstatus

/-- What is written is read back, whatever follows it (R113). -/
theorem decodeHandshake_encoded {h : Handshake} {w : Bytes} (hw : encodeHandshake h = .ok w)
    (t : Bytes) : decodeHandshake (w ++ t) = .ok (h, w.length) := by
  simp [decodeHandshake, (parseHandshake_reads hw).whole t]

/-- A decoded handshake is the record of the layout. -/
theorem decodeHandshake_ok {b : Bytes} {h : Handshake} {n : Nat}
    (hb : decodeHandshake b = .ok (h, n)) : ∃ decl timestamp, h = recordAt b decl timestamp := by
  rcases decodeHandshake_cases b with e | e | e | ⟨decl, timestamp, _, e⟩ <;> rw [e] at hb <;>
    cases hb
  exact ⟨decl, timestamp, rfl⟩

/-- A name of the layout is as long as its one-byte length allows. -/
theorem recordAt_names (b : Bytes) (decl : Option DeclAddress) (timestamp : Nat) :
    (recordAt b decl timestamp).appName.length ≤ 255 ∧
      (recordAt b decl timestamp).nodeName.length ≤ 255 := by
  have happ : appLenAt b < 256 := (byteAt b 0).isLt
  have hnode : nodeLenAt b < 256 := (byteAt b (13 + appLenAt b)).isLt
  simp only [recordAt, byteSlice, List.length_take]
  omega

/-- Settles O16: the first part is the round trip of the parser, and in the second the address is the only
check that can fail first. -/
theorem handshakeRoundTrip : Obligations.HandshakeRoundTrip := by
  refine ⟨fun h t s hh => ?_, fun b h n s hdec ⟨a, ha, hip⟩ => ?_⟩
  · obtain ⟨w, hw⟩ := encodeHandshake_of_encodable hh
    exact ⟨w, answers_of_ok hw s, answers_of_ok (decodeHandshake_encoded hw t) s⟩
  · obtain ⟨⟨h', n'⟩, hb, hr⟩ := ok_of_answers hdec
    cases hr
    obtain ⟨decl, timestamp, rfl⟩ := decodeHandshake_ok hb
    obtain ⟨happ, hnode⟩ := recordAt_names b decl timestamp
    exact answers_of_error (encodeHandshake_error happ hnode
      (ha ▸ encodeDeclAddress_unsupported (by omega))) s

/-! ## The error that nothing raises (R112) -/

theorem decodeBe_ne_invalidAddress (n : Nat) (b : Bytes) :
    decodeBe n b ≠ .error .invalidAddress := by
  unfold decodeBe
  split <;> simp

theorem encodeAddress_ne_invalidAddress (a : Peer) :
    encodeAddress a ≠ .error .invalidAddress := by
  unfold encodeAddress
  split <;> simp

theorem decodeAddress_ne_invalidAddress (b : Bytes) :
    decodeAddress b ≠ .error .invalidAddress := by
  unfold decodeAddress
  split <;> simp

theorem encodePeers_ne_invalidAddress (ps : List Peer) :
    encodePeers ps ≠ .error .invalidAddress := by
  rw [encodePeers]
  split
  · simp
  · by_cases h : ∃ a ∈ ps, a.ip.length ≠ 4
    · simp [encodeEntries_error h]
    · have hps : ∀ a ∈ ps, a.ip.length = 4 := by simpa using h
      simp [encodeEntries_ok hps]

theorem decodePeers_ne_invalidAddress (b : Bytes) :
    decodePeers b ≠ .error .invalidAddress := by
  rcases decodePeers_cases b with ⟨_, e⟩ | ⟨_, _, e⟩ | ⟨_, _, e⟩ <;> simp [e]

theorem encodeHeader_ne_invalidAddress (h : Header) :
    encodeHeader h ≠ .error .invalidAddress := by
  unfold encodeHeader
  dsimp only
  split_ifs <;> simp

theorem decodeHeader_ne_invalidAddress (b : Bytes) :
    decodeHeader b ≠ .error .invalidAddress := by
  rcases decodeHeader_cases b with ⟨_, e⟩ | ⟨_, _, e⟩ | ⟨_, _, _, e⟩ | ⟨_, _, e⟩ <;> simp [e]

theorem encodeMessage_ne_invalidAddress (cid : Byte) (p : Bytes) :
    encodeMessage cid p ≠ .error .invalidAddress := by
  rw [encodeMessage]
  split
  · simp
  · have hheader := encodeHeader_ne_invalidAddress (messageHeader cid p)
    cases he : encodeHeader (messageHeader cid p) with
    | error e => simpa [he] using hheader
    | ok w => simp

theorem dispatch_ne_invalidAddress (cid : Byte) (rest : Bytes) :
    dispatch cid rest ≠ .error .invalidAddress := by
  have hpeers := decodePeers_ne_invalidAddress rest
  rcases dispatch_cases cid rest with ⟨_, _, _, e⟩ | ⟨_, _, hp, e⟩ | ⟨_, _, e⟩ | ⟨_, _, e⟩ <;>
    rw [e]
  · simp
  · simpa [hp] using hpeers
  · simp
  · simp

theorem decodeMessage_ne_invalidAddress (b : Bytes) :
    decodeMessage b ≠ .error .invalidAddress := by
  by_cases h17 : 17 ≤ b.length
  · have hentry := dispatch_ne_invalidAddress (byteAt b 8) (b.drop (if rdBe b 9 4 = 0 then 13 else 17))
    rw [decodeMessage_of_le h17]
    split
    next he => simpa [he] using hentry
    next => simp
  · rw [decodeMessage]
    split
    · simp
    · rw [if_pos (by omega)]
      simp

theorem encodeHandshake_ne_invalidAddress (h : Handshake) :
    encodeHandshake h ≠ .error .invalidAddress := by
  have hdecl : encodeDeclAddress h.declAddress ≠ .error .invalidAddress := by
    unfold encodeDeclAddress
    split
    · simp
    · split_ifs <;> simp
  rcases encodeHandshake_cases h with ⟨_, e⟩ | ⟨_, _, e⟩ <;> rw [e]
  · simp
  · cases hd : encodeDeclAddress h.declAddress with
    | error e' => simpa [Except.map, hd] using hdecl
    | ok d => simp [Except.map]

/-- The address check is passed by both lengths that a declSize announces, so the other three errors are
all that is left (R111, R112). -/
theorem decodeHandshake_ne_invalidAddress (b : Bytes) :
    decodeHandshake b ≠ .error .invalidAddress := by
  rcases decodeHandshake_cases b with e | e | e | ⟨_, _, _, e⟩ <;> simp [e]

/-- The status an event carries (R35). -/
def Event.status : Event → Status
  | .handshake status _ _ => status
  | .frame _ status _ => status
  | .fault status _ => status

theorem statusOf_ne_error {α : Type} {x : Except ErrorCode α} {e : ErrorCode} (h : x ≠ .error e) :
    statusOf x ≠ .error e := by
  cases x with
  | ok v => simp
  | error e' => simpa using h

theorem handshakeEvent_status (c : Bytes) :
    (handshakeEvent c).status = statusOf (decodeHandshake c) := by
  unfold handshakeEvent
  cases decodeHandshake c <;> rfl

theorem frameEvent_status (f : Bytes) : (frameEvent f).status = statusOf (decodeMessage f) := rfl

/-- The events of a drain are frames, and `FrameTooLarge` faults. -/
theorem rxLoop_status_ne_invalidAddress {fuel : Nat} {s : State} {e : Event}
    (he : e ∈ (rxLoop fuel s).2) : e.status ≠ .error .invalidAddress := by
  induction fuel generalizing s with
  | zero => cases he
  | succ fuel ih =>
    rcases rxLoop_cases fuel s with ⟨_, _, h⟩ | ⟨_, _, _, h⟩ | ⟨_, _, h⟩ | ⟨_, _, h⟩ <;> rw [h] at he
    · cases he
    · rw [List.mem_singleton.mp he]
      simp [Event.status]
    · cases he
    · rcases List.mem_cons.mp he with rfl | he
      · rw [frameEvent_status]
        exact statusOf_ne_error (decodeMessage_ne_invalidAddress _)
      · exact ih he

/-- The answer has not the status `InvalidAddress`, nor has an event in it. -/
structure Answer.AvoidsInvalidAddress (a : Answer) : Prop where
  status : a.status ≠ .error .invalidAddress
  events : ∀ es, a.result = some (.events es) → ∀ e ∈ es, e.status ≠ .error .invalidAddress

/-- The outcome is a state whose answer does not carry `InvalidAddress`. -/
def AvoidsInvalidAddress (o : Host.Outcome State Fault Refusal) : Prop :=
  ∃ u a, o = .next (State.setAnswer a u) ∧ a.AvoidsInvalidAddress

/-- A command that always answers `OK` with a result that is no event list. -/
theorem returns_avoids {r : Option Result} (hr : ∀ es, r ≠ some (.events es)) (s : State) :
    AvoidsInvalidAddress (returns r s) :=
  ⟨s, _, returns_eq r s, by simp, fun es h => absurd h (hr es)⟩

/-- A codec command whose computation does not raise `InvalidAddress`. -/
theorem answers_avoids {α : Type} {f : α → Result} {x : Except ErrorCode α}
    (hf : ∀ v es, f v ≠ .events es) (hx : x ≠ .error .invalidAddress) (s : State) :
    AvoidsInvalidAddress (answers f x s) := by
  refine ⟨s, _, answers_eq f x s, ?_, fun es h => ?_⟩
  · rw [answerOf_status]
    exact statusOf_ne_error hx
  · rcases answerOf_cases f x with ⟨v, _, e⟩ | ⟨_, _, e⟩ <;> rw [e] at h
    · exact absurd (Option.some.inj h) (hf v es)
    · cases h

/-- The entry of the payload decoder table at a content-id. -/
theorem runEntry_avoids (cid : Byte) (rest : Bytes) (s : State) :
    AvoidsInvalidAddress (runEntry cid rest s) :=
  answers_avoids nofun (dispatch_ne_invalidAddress cid rest) s

theorem execRxChunk_avoids (c : Bytes) (s : State) : AvoidsInvalidAddress (execRxChunk c s) := by
  rcases execRxChunk_cases c s with ⟨_, e⟩ | ⟨_, _, e⟩ | ⟨_, _, _, e⟩ | ⟨_, _, _, e⟩ <;>
    refine ⟨_, _, e, by simp, fun es hes ev hev => ?_⟩ <;> cases hes
  · cases hev
  · rw [List.mem_singleton.mp hev, handshakeEvent_status]
    exact statusOf_ne_error (decodeHandshake_ne_invalidAddress c)
  · exact rxLoop_status_ne_invalidAddress hev

/-- No instruction answers `InvalidAddress`, in its status or in an event. -/
theorem exec_avoids (i : Instr) (s : State) : AvoidsInvalidAddress (exec i s) := by
  cases i with
  | reset => exact returns_avoids (by simp) _
  | beEnc1 _ | beEnc4 _ | beEnc8 _ | cksum _ => exact returns_avoids (by simp) s
  | beDec1 b | beDec4 b | beDec8 b => exact answers_avoids (by simp) (decodeBe_ne_invalidAddress _ b) s
  | addrEnc a => exact answers_avoids nofun (encodeAddress_ne_invalidAddress a) s
  | addrDec b => exact answers_avoids nofun (decodeAddress_ne_invalidAddress b) s
  | hsEnc h => exact answers_avoids nofun (encodeHandshake_ne_invalidAddress h) s
  | hsDec b => exact answers_avoids nofun (decodeHandshake_ne_invalidAddress b) s
  | hdrEnc h => exact answers_avoids nofun (encodeHeader_ne_invalidAddress h) s
  | hdrDec b => exact answers_avoids nofun (decodeHeader_ne_invalidAddress b) s
  | msgEnc cid p => exact answers_avoids nofun (encodeMessage_ne_invalidAddress cid p) s
  | msgDec b => exact answers_avoids nofun (decodeMessage_ne_invalidAddress b) s
  | peersEnc ps => exact answers_avoids nofun (encodePeers_ne_invalidAddress ps) s
  | peersDec b => exact answers_avoids nofun (decodePeers_ne_invalidAddress b) s
  | rxChunk c => exact execRxChunk_avoids c s
  | _ => exact runEntry_avoids _ _ s

/-- Settles O15: an event of any form that carried the error would have it as its status. -/
theorem invalidAddressIsNeverRaised : Obligations.InvalidAddressIsNeverRaised := by
  refine ⟨fun ip => addrOk_of_length, fun i s t a h ha => ?_⟩
  obtain ⟨u, a', hu, hstatus, hevents⟩ := exec_avoids i s
  obtain rfl := Host.Outcome.next.inj (h.symm.trans hu)
  obtain rfl := Option.some.inj ha
  exact ⟨hstatus, fun es hes => ⟨fun _ _ he => hevents es hes _ he rfl,
    fun _ _ he => hevents es hes _ he rfl, fun _ he => hevents es hes _ he rfl⟩⟩

end Sys2Proof.Machine

/-!
PROOFS. The statements about the header (spec/42_header.md): the bytes that are written, and what the
decoder answers on 13 fixed bytes and anything after them, from which both the offsets and the round trip
follow.
-/

namespace Sys2Proof.Machine

/-! ## The header that is written (R130) -/

/-- The checksum is missing just when there is no payload (R32). -/
theorem header_wellFormed_iff (h : Header) :
    h.wellFormed = true ↔ (h.checksum = none ↔ h.payloadLength = 0) := by
  have hzero : h.payloadLength = 0 ↔ h.payloadLength.toNat = 0 := BitVec.toNat_eq
  have hpos : 0 < h.payloadLength.toNat ↔ h.payloadLength ≠ 0 :=
    Nat.pos_iff_ne_zero.trans (not_congr hzero).symm
  cases hc : h.checksum <;> simp [Header.wellFormed, hc, hpos]

theorem encodeHeader_invalidRecord {h : Header} (hw : ¬ h.wellFormed = true) :
    encodeHeader h = .error .invalidRecord := by
  refine if_pos fun heq => hw ?_
  rw [Header.wellFormed, beq_iff_eq, Bool.eq_iff_iff, decide_eq_true_iff, heq]

/-- The fixed bytes with the magic and the content-id written out (R64). -/
theorem fixedBytes_eq (h : Header) : fixedBytes h = be32Bits h.packetLength ++
    [h.magic.b0, h.magic.b1, h.magic.b2, h.magic.b3] ++ [h.contentId] ++ be32Bits h.payloadLength := by
  rw [fixedBytes, be8Bits_eq, quadBytes]

theorem be32Bits_zero : be32Bits 0 = [0, 0, 0, 0] := by decide

/-- Settles O17: the two headers whose checksum agrees are well-formed, the other two are not. -/
theorem hdrEncWritesFieldsAsGiven : Obligations.HdrEncWritesFieldsAsGiven := by
  intro pl m cid pll q s
  refine ⟨fun h0 => ⟨?_, ?_⟩, fun h0 => ⟨?_, ?_⟩⟩
  · have hw : (⟨pl, m, cid, pll, none⟩ : Header).wellFormed = true := by
      simp [header_wellFormed_iff, h0]
    have henc := encodeHeader_eq hw
    rw [fixedBytes_eq, h0, be32Bits_zero, checksumBytes, List.append_nil] at henc
    rw [h0]
    exact answers_of_ok henc s
  · exact answers_of_error (encodeHeader_invalidRecord (by simp [header_wellFormed_iff, h0])) s
  · have hw : (⟨pl, m, cid, pll, some q⟩ : Header).wellFormed = true := by
      simpa [header_wellFormed_iff] using h0
    have henc := encodeHeader_eq hw
    rw [fixedBytes_eq] at henc
    exact answers_of_ok henc s
  · exact answers_of_error
      (encodeHeader_invalidRecord (by simpa [header_wellFormed_iff] using h0)) s

/-! ## The header that is read (R131) -/

theorem payloadLength_at_fixedBytes (h : Header) (t : Bytes) :
    rdBe (fixedBytes h ++ t) 9 4 = h.payloadLength.toNat := by
  rw [← u32At_toNat]
  exact congrArg (fun r => r.payloadLength.toNat) (headerAt_fixedBytes h none t)

/-- What `HDR_DEC` computes from 13 fixed bytes: the payload length decides whether the four bytes after
them are the checksum (R131). -/
theorem decodeHeader_fixedBytes (h : Header) (t : Bytes) :
    decodeHeader (fixedBytes h ++ t) =
      if h.payloadLength = 0 then .ok ({ h with checksum := none }, 13)
      else if t.length < 4 then .error .messageTooShort
      else .ok ({ h with checksum := some (quadAt t 0) }, 17) := by
  have hlen : (fixedBytes h ++ t).length = 13 + t.length := by
    rw [List.length_append, fixedBytes_length]
  have hquad : quadAt (fixedBytes h ++ t) 13 = quadAt t 0 := by
    have hbyte := byteAt_append_add (fixedBytes_length h) t
    simp only [quadAt, ← hbyte]
  have hzero : h.payloadLength = 0 ↔ h.payloadLength.toNat = 0 := BitVec.toNat_eq
  have hread := payloadLength_at_fixedBytes h t
  rcases decodeHeader_cases (fixedBytes h ++ t) with
    ⟨hb, _⟩ | ⟨_, h0, e⟩ | ⟨_, h0, hb, e⟩ | ⟨hb, h0, e⟩
  · omega
  · rw [e, if_pos (hzero.mpr (by omega)), headerAt_fixedBytes]
  · rw [e, if_neg (mt hzero.mp (by omega)), if_pos (by omega)]
  · rw [e, if_neg (mt hzero.mp (by omega)), if_neg (by omega), hquad, headerAt_fixedBytes]

/-- Four bytes are what is written for the word they make (R43). -/
theorem be32Bits_append (x0 x1 x2 x3 : Byte) : be32Bits (x0 ++ x1 ++ x2 ++ x3) = [x0, x1, x2, x3] := by
  rw [be32Bits, ← beValue_four]
  exact beBytes_beValue [x0, x1, x2, x3]

/-- Any 13 bytes are the fixed bytes of the header whose fields stand in them (R64). -/
theorem fixedBytes_of_bytes (l0 l1 l2 l3 m0 m1 m2 m3 cid p0 p1 p2 p3 : Byte) (ck : Option Quad) :
    fixedBytes ⟨l0 ++ l1 ++ l2 ++ l3, ⟨m0, m1, m2, m3⟩, cid, p0 ++ p1 ++ p2 ++ p3, ck⟩ =
      [l0, l1, l2, l3, m0, m1, m2, m3, cid, p0, p1, p2, p3] := by
  simp only [fixedBytes_eq, be32Bits_append, List.cons_append, List.nil_append]

/-- Settles O18: the first 13 bytes are the fixed bytes of a header. -/
theorem hdrDecReadsFieldsAtOffsets : Obligations.HdrDecReadsFieldsAtOffsets := by
  intro s
  refine ⟨fun b hb => answers_of_error (if_pos hb) s, ?_⟩
  intro l0 l1 l2 l3 m0 m1 m2 m3 cid p0 p1 p2 p3 t b pl pll
  have hdec := decodeHeader_fixedBytes ⟨pl, ⟨m0, m1, m2, m3⟩, cid, pll, none⟩ t
  rw [fixedBytes_of_bytes] at hdec
  refine ⟨fun h0 => ?_, fun h0 ht => ?_, fun c0 c1 c2 c3 u h0 ht => ?_⟩
  · rw [if_pos h0, h0] at hdec
    exact answers_of_ok hdec s
  · rw [if_neg h0, if_pos ht] at hdec
    exact answers_of_error hdec s
  · have hlen : ¬ t.length < 4 := by simp [ht]
    have hquad : quadAt t 0 = ⟨c0, c1, c2, c3⟩ := by rw [ht]; rfl
    rw [if_neg h0, if_neg hlen, hquad] at hdec
    exact answers_of_ok hdec s

/-! ## A header is read back (R132) -/

theorem encodedHeader_length {h : Header} (hw : h.wellFormed = true) :
    (fixedBytes h ++ checksumBytes h.checksum).length = if h.payloadLength = 0 then 13 else 17 := by
  rw [header_wellFormed_iff] at hw
  rw [List.length_append, fixedBytes_length]
  cases hc : h.checksum with
  | none => rw [if_pos (hw.mp hc)]; rfl
  | some q => rw [if_neg (mt hw.mpr (by simp [hc]))]; rfl

/-- A well-formed header is read back with its size, whatever follows it. -/
theorem decodeHeader_encoded {h : Header} (hw : h.wellFormed = true) (t : Bytes) :
    decodeHeader (fixedBytes h ++ checksumBytes h.checksum ++ t) =
      .ok (h, if h.payloadLength = 0 then 13 else 17) := by
  rw [header_wellFormed_iff] at hw
  rw [List.append_assoc, decodeHeader_fixedBytes]
  cases hc : h.checksum with
  | none => rw [if_pos (hw.mp hc), if_pos (hw.mp hc), ← hc]
  | some q =>
    have h0 : h.payloadLength ≠ 0 := mt hw.mpr (by simp [hc])
    have hquad : quadAt (quadBytes q ++ t) 0 = q := quadAt_quadBytes (a := []) q t rfl
    rw [if_neg h0, if_neg h0, checksumBytes, hquad, if_neg (by simp [quadBytes]), ← hc]

/-- Settles O19. -/
theorem headerRoundTrip : Obligations.HeaderRoundTrip := by
  intro h t s hw
  have hlen := encodedHeader_length hw
  refine ⟨_, answers_of_ok (encodeHeader_eq hw) s, hlen, ?_⟩
  rw [hlen]
  exact answers_of_ok (decodeHeader_encoded hw t) s

end Sys2Proof.Machine

/-!
PROOFS. The statements about the message (spec/43_message.md): the frame that `MSG_ENC` builds, what
`MSG_DEC` makes of 13 fixed bytes, a checksum and a rest, and the payload decoder table that it shares with
the content-id requests.
-/

namespace Sys2Proof.Machine

/-! ## The frame that is written (R140) -/

/-- The four checksum bytes are the first four of the digest (R160). -/
theorem quadBytes_checksum (b : Bytes) :
    quadBytes (checksum b) = (Config.hash b).toList.take 4 := by
  refine List.ext_getElem (by simp [quadBytes]) fun i hi _ => ?_
  have hi4 : i < 4 := hi
  interval_cases i <;> simp [quadBytes, checksum]

theorem messageHeader_nil (cid : Byte) :
    messageHeader cid [] = ⟨9, Config.magic, cid, 0, none⟩ := rfl

/-- With a payload the packet length counts 13 bytes beside it: the 17 of the header but its own four
(R140). -/
theorem messageHeader_of_ne_nil (cid : Byte) {p : Bytes} (hp : p ≠ []) :
    messageHeader cid p = ⟨BitVec.ofNat 32 (p.length + 13), Config.magic, cid,
      BitVec.ofNat 32 p.length, some (checksum p)⟩ := by
  have h0 : p.length ≠ 0 := mt List.length_eq_zero_iff.mp hp
  have hsize : headerSize p.length + p.length - 4 = p.length + 13 := by
    rw [headerSize, if_neg h0]
    omega
  rw [messageHeader, hsize, if_neg h0]

/-- A packet length that does not fit its field is refused before anything is written (R140). -/
theorem encodeMessage_overflow (cid : Byte) {p : Bytes} (hl : 2 ^ 32 - 14 < p.length) :
    encodeMessage cid p = .error .lengthOverflow := by
  refine if_pos ?_
  rw [headerSize, if_neg (by omega)]
  omega

/-- Settles O20: the frame of a payload that fits, for an empty payload and for any other, and the one
check. -/
theorem msgEncBuildsFrame : Obligations.MsgEncBuildsFrame := by
  intro cid p s
  refine ⟨fun hp => ?_, fun hp hl => ?_, fun hl => answers_of_error (encodeMessage_overflow cid hl) s⟩
  · have henc := encodeMessage_eq cid (p := []) (by simp)
    have hlength : be32Bits 9 = [0, 0, 0, 9] := by decide
    rw [messageHeader_nil, fixedBytes_eq, hlength, be32Bits_zero] at henc
    rw [hp]
    exact answers_of_ok henc s
  · have henc := encodeMessage_eq cid hl
    rw [messageHeader_of_ne_nil cid hp, fixedBytes_eq, checksumBytes, quadBytes_checksum] at henc
    exact answers_of_ok henc s

/-! ## The frame that is read (R141, R142) -/

theorem decodeMessage_short {b : Bytes} (h : b.length < 13) :
    decodeMessage b = .error .messageTooShort := if_pos h

/-- Below 17 bytes the rest is not looked at, whatever the payload length says (R141). -/
theorem decodeMessage_headerOnly {b : Bytes} (h13 : 13 ≤ b.length) (h17 : b.length < 17) :
    decodeMessage b = .ok ⟨headerAt b none, .none⟩ := by
  rw [decodeMessage, if_neg (by omega), if_pos h17]

/-- The header that `MSG_DEC` returns from 17 bytes on (R131, R141). -/
def receivedHeader (b : Bytes) : Header :=
  headerAt b (if rdBe b 9 4 = 0 then none else some (quadAt b 13))

/-- From 17 bytes on, `MSG_DEC` puts the received header before what the table's entry gives. -/
theorem decodeMessage_eq_map {b : Bytes} (h : 17 ≤ b.length) :
    decodeMessage b = (tableEntry b).map (Message.mk (receivedHeader b)) := by
  rw [decodeMessage_of_le h, ← tableEntry, ← receivedHeader]
  cases tableEntry b <;> rfl

theorem dispatch_nil {cid : Byte} (hc : cid ≠ 0x02) : dispatch cid [] = .ok .none := if_neg hc

theorem dispatch_opaque {cid : Byte} (hc : cid ≠ 0x02) {rest : Bytes} (hr : rest ≠ []) :
    dispatch cid rest = .ok (.opaqueBytes rest) := by
  rw [dispatch, if_neg hc, if_neg (mt List.length_eq_zero_iff.mp hr)]

/-- A codec command answers an error only when its computation ends with it. -/
theorem error_of_answers {α : Type} {f : α → Result} {x : Except ErrorCode α} {e : ErrorCode}
    {s : State} (h : answers f x s = .next { s with answer := some ⟨.error e, none⟩ }) :
    x = .error e := by
  have ha : answerOf f x = ⟨.error e, none⟩ := Option.some.inj (congrArg State.answer
    (Host.Outcome.next.inj ((answers_eq f x s).symm.trans h)))
  rcases answerOf_cases f x with ⟨_, _, e'⟩ | ⟨_, hx, e'⟩ <;> rw [e'] at ha <;> cases ha
  exact hx

/-- Settles O21: the two short lengths, and then the entry of the table that the content-id selects. -/
theorem msgDecDispatchesOnContentId : Obligations.MsgDecDispatchesOnContentId := by
  intro b s size header full
  have hdec (h17 : 17 ≤ b.length) {r : Except ErrorCode Payload}
      (hr : dispatch (byteAt b 8) (b.drop size) = r) : decodeMessage b = r.map (Message.mk full) :=
    hr ▸ decodeMessage_eq_map h17
  refine ⟨fun h => answers_of_error (decodeMessage_short h) s,
    fun h13 h17 => answers_of_ok (decodeMessage_headerOnly h13 h17) s,
    fun h17 hcid => ⟨fun ps hps => ?_, fun e he => ?_⟩, fun h17 hcid hrest => ?_,
    fun h17 hcid hrest => answers_of_ok (hdec h17 (dispatch_opaque hcid hrest)) s⟩
  · obtain ⟨_, hpeers, hr⟩ := ok_of_answers hps
    cases hr
    exact answers_of_ok (hdec h17 (by rw [hcid, dispatch_peers, hpeers])) s
  · exact answers_of_error (hdec h17 (by rw [hcid, dispatch_peers, error_of_answers he])) s
  · exact answers_of_ok (hdec h17 (by rw [hrest, dispatch_nil hcid])) s

/-! ## A received checksum (R143) -/

/-- Any 13 bytes are the fixed bytes of some header (R64). -/
theorem exists_fixedBytes {b : Bytes} (h : b.length = 13) : ∃ r, fixedBytes r = b := by
  match b, h with
  | [_, _, _, _, _, _, _, _, _, _, _, _, _], _ =>
    exact ⟨_, fixedBytes_of_bytes _ _ _ _ _ _ _ _ _ _ _ _ _ none⟩

/-- The four bytes after the fixed bytes of a frame with a payload end up in the header and nowhere else:
the payload is what the table gives for the rest (R141, R143). -/
theorem decodeMessage_fixedBytes {h : Header} (h0 : h.payloadLength ≠ 0) (q : Quad) (rest : Bytes) :
    decodeMessage (fixedBytes h ++ quadBytes q ++ rest) =
      (dispatch h.contentId rest).map (Message.mk { h with checksum := some q }) := by
  have hsize : (fixedBytes h ++ quadBytes q).length = 17 := by
    rw [List.length_append, fixedBytes_length]
    rfl
  have hlen : 17 ≤ (fixedBytes h ++ quadBytes q ++ rest).length := by
    rw [List.length_append]
    omega
  have hquad : quadAt (quadBytes q ++ rest) 0 = q := quadAt_quadBytes (a := []) q rest rfl
  have hheader : decodeHeader (fixedBytes h ++ quadBytes q ++ rest) =
      .ok ({ h with checksum := some q }, 17) := by
    rw [List.append_assoc, decodeHeader_fixedBytes, if_neg h0, if_neg (by simp [quadBytes]), hquad]
  rw [decodeMessage, if_neg (by omega), if_neg (by omega), hheader]
  simp only [List.drop_left' hsize]
  cases dispatch h.contentId rest <;> rfl

/-- Settles O23: the header and the table's entry are found without the four bytes. -/
theorem receivedChecksumIsNotVerified : Obligations.ReceivedChecksumIsNotVerified := by
  intro fixed rest s hlen hpos
  obtain ⟨h, rfl⟩ := exists_fixedBytes hlen
  have hread := payloadLength_at_fixedBytes h []
  rw [List.append_nil] at hread
  have h0 : h.payloadLength ≠ 0 := fun hz => by
    rw [hread, hz] at hpos
    exact absurd hpos (by decide)
  refine ⟨h, dispatch h.contentId rest, fun q => ?_⟩
  have hdec := decodeMessage_fixedBytes h0 q rest
  cases hr : dispatch h.contentId rest with
  | ok p => exact answers_of_ok (by rw [← quadBytes, hdec, hr]; rfl) s
  | error e => exact answers_of_error (by rw [← quadBytes, hdec, hr]; rfl) s

/-! ## A frame is read back (R144) -/

/-- The frame of a payload: the header built from it, then the payload (R65, R140). -/
def messageFrame (cid : Byte) (p : Bytes) : Bytes :=
  fixedBytes (messageHeader cid p) ++ checksumBytes (messageHeader cid p).checksum ++ p

theorem encodeMessage_eq_messageFrame (cid : Byte) {p : Bytes} (hl : p.length ≤ 2 ^ 32 - 14) :
    encodeMessage cid p = .ok (messageFrame cid p) := encodeMessage_eq cid hl

theorem messageFrame_length (cid : Byte) (p : Bytes) :
    (messageFrame cid p).length = headerSize p.length + p.length := by
  rw [messageFrame, List.length_append, List.length_append, fixedBytes_length, messageHeader,
    headerSize]
  split <;> rfl

/-- The header that `MSG_ENC` builds has the length of its frame (R140, R144). -/
theorem messageHeader_eq (cid : Byte) (p : Bytes) :
    messageHeader cid p = ⟨BitVec.ofNat 32 ((messageFrame cid p).length - 4),
      ⟨0x12, 0x34, 0x56, 0x78⟩, cid, BitVec.ofNat 32 p.length,
      if p = [] then none else some (checksum p)⟩ := by
  simp only [messageFrame_length, messageHeader, List.length_eq_zero_iff, Config.magic]

/-- A frame without a payload is 13 bytes long, so its header is all that is read (R141). -/
theorem decodeMessage_emptyFrame (cid : Byte) :
    decodeMessage (messageFrame cid []) = .ok ⟨messageHeader cid [], .none⟩ := by
  have hlen : (messageFrame cid []).length = 13 := messageFrame_length cid []
  have hheader : headerAt (messageFrame cid []) none = messageHeader cid [] := by
    rw [messageFrame, List.append_assoc]
    exact headerAt_fixedBytes _ _ _
  rw [decodeMessage_headerOnly (by omega) (by omega), hheader]

/-- A frame with a payload is read back as its header and the table's entry on the payload. -/
theorem decodeMessage_messageFrame (cid : Byte) {p : Bytes} (hp : p ≠ [])
    (hl : p.length ≤ 2 ^ 32 - 14) :
    decodeMessage (messageFrame cid p) = (dispatch cid p).map (Message.mk (messageHeader cid p)) :=
  decodeMessage_frame cid hp hl

/-- Encoded peers are not empty, and are read back as they were (R172, R174). -/
theorem decodePeers_of_encodePeers {ps : List Peer} {p : Bytes} (h : encodePeers ps = .ok p) :
    p ≠ [] ∧ decodePeers p = .ok ps := by
  have hwf := (encodePeers_ok_iff ps).mp (by rw [h, statusOf_ok])
  simp only [Instr.wellFormed, Bool.and_eq_true, decide_eq_true_eq, List.all_eq_true,
    Peer.wellFormed, beq_iff_eq] at hwf
  obtain ⟨hn, hip⟩ := hwf
  obtain rfl : beBytes 4 ps.length ++ entryBytes ps = p :=
    Except.ok.inj ((encodePeers_eq hn hip).symm.trans h)
  exact ⟨by simp [beBytes], by simpa using decodePeers_encoded hn hip []⟩

/-- Settles O22: an empty payload leaves the header alone, and any other is read by the table's entry, which
for peers undoes `PEERS_ENC`. -/
theorem messageRoundTrip : Obligations.MessageRoundTrip := by
  intro cid p s hl
  refine ⟨messageFrame cid p, checksum p, answers_of_ok (encodeMessage_eq_messageFrame cid hl) s,
    returns_eq _ s, ?_⟩
  rw [← messageHeader_eq]
  refine ⟨?_, fun hp => ?_, fun ps hcid hps => ?_, fun hcid hp => ?_⟩
  · rw [messageFrame_length, headerSize]
    split <;> omega
  · rw [hp]
    exact answers_of_ok (decodeMessage_emptyFrame cid) s
  · obtain ⟨_, henc, hr⟩ := ok_of_answers hps
    cases hr
    obtain ⟨hp, hpeers⟩ := decodePeers_of_encodePeers henc
    subst hcid
    have hdec := decodeMessage_messageFrame 0x02 hp hl
    rw [dispatch_peers, hpeers] at hdec
    exact answers_of_ok hdec s
  · have hdec := decodeMessage_messageFrame cid hp hl
    rw [dispatch_opaque hcid hp] at hdec
    exact answers_of_ok hdec s

/-! ## The table behind a content-id request (R71, R142) -/

/-- The instruction of a listed content-id is its entry of the table (R70). -/
theorem exec_of_mem_contentIdTable {cid : Byte} {a : Operands} {i : Instr}
    (h : (cid, i) ∈ decodeTable .contentId a) (s : State) : exec i s = runEntry cid a.bytes s := by
  have hrow : ∀ row ∈ decodeTable .contentId a, exec row.2 s = runEntry row.1 a.bytes s := by
    simp only [decodeTable, List.forall_mem_cons]
    exact ⟨rfl, rfl, rfl, rfl, rfl, rfl, rfl, rfl, rfl, rfl, rfl, nofun⟩
  exact hrow _ h

/-- A step on a content-id request runs the table's entry, listed or not (R71). -/
theorem step_contentIdRequest (cid : Byte) (rest : Bytes) (s : State) :
    step { s with pending := contentIdRequest cid rest :: s.pending } = runEntry cid rest s := by
  cases hd : decode (contentIdRequest cid rest) with
  | ok i =>
    rw [step_of_decode_ok rfl hd]
    exact exec_of_mem_contentIdTable (decode_ok_iff.mp hd) s
  | error e =>
    rw [step_of_decode_error rfl hd]
    rfl

/-- Settles O25: both sides are decided by the same entry of the table. -/
theorem msgDecUsesPayloadTable : Obligations.MsgDecUsesPayloadTable := by
  intro b s h17 size
  have hdec := decodeMessage_eq_map h17
  refine ⟨receivedHeader b, tableEntry b, ?_⟩
  rw [step_contentIdRequest]
  cases hr : tableEntry b with
  | ok p => exact ⟨answers_of_ok (by rw [hdec, hr]; rfl) s, answers_of_ok hr s⟩
  | error e => exact ⟨answers_of_error (by rw [hdec, hr]; rfl) s, answers_of_error hr s⟩

end Sys2Proof.Machine

/-!
PROOFS. The statements about the checksum (spec/44_checksum.md): the bytes that `CKSUM` answers, the reference
values of the model's BLAKE2b text, and the length of its digest. The length comes from the shape of the words
alone: a round keeps the number of work words, so every block keeps the eight chaining words.
-/

namespace Sys2Proof.Machine

/-! ## The command (R160) -/

theorem exec_cksum (b : Bytes) (s : State) :
    exec (.cksum b) s = returns (some (.bytes (quadBytes (checksum b)))) s := rfl

/-- Settles O4: the four bytes of the answer are the first four of the digest. -/
theorem cksumAnswersFirstFourDigestBytes : Obligations.CksumAnswersFirstFourDigestBytes := by
  intro b s
  rw [exec_cksum, quadBytes_checksum]
  exact returns_eq _ s

/-! ## The reference values of BLAKE2b (R162) -/

/-- Settles O5: each value is one run of the compression function, evaluated in the kernel. -/
theorem blake2bReferenceValues : Obligations.Blake2bReferenceValues := by
  refine ⟨?empty, ?zeroWord, ?oneWord, ?twoBytes, ?peers, ?emptyLong⟩
  all_goals decide +kernel

/-! ## The length of a digest (R7, R161) -/

theorem withNat_eq {α : Type} (n : Nat) (k : Nat → α) : withNat n k = k n := by
  cases n <;> rfl

/-- The mixing function hands four words on to its continuation, so what it gives is as long as what the
continuation gives. -/
theorem blakeMix_length {n : Nat} {k : Nat → Nat → Nat → Nat → List Nat}
    (hk : ∀ a b c d, (k a b c d).length = n) (a b c d x y : Nat) :
    (blakeMix a b c d x y k).length = n := by
  simp only [blakeMix, withNat_eq, hk]

/-- A round keeps the number of work words: it gives 16 for 16, and leaves any other list as it is. -/
theorem blakeRound_length (m row v : List Nat) : (blakeRound m row v).length = v.length := by
  unfold blakeRound
  split
  · iterate 8 refine blakeMix_length (fun _ _ _ _ => ?_) ..
    rfl
  · rfl

theorem foldl_blakeRound_length (m : List Nat) (rows : List (List Nat)) (v : List Nat) :
    (rows.foldl (fun v row => blakeRound m row v) v).length = v.length := by
  induction rows generalizing v with
  | nil => rfl
  | cons row rows ih => rw [List.foldl_cons, ih, blakeRound_length]

/-- The compression function keeps the number of chaining words. -/
theorem blakeCompress_length {h : List Nat} (hh : h.length = 8) (block : Bytes) (counter : Nat)
    (last : Bool) : (blakeCompress h block counter last).length = 8 := by
  simp [blakeCompress, foldl_blakeRound_length, hh, blakeIv]

theorem blakeBlocks_length (fuel : Nat) {h : List Nat} (hh : h.length = 8) (b : Bytes)
    (counter : Nat) : (blakeBlocks fuel h b counter).length = 8 := by
  induction fuel generalizing h b counter with
  | zero => exact hh
  | succ fuel ih =>
    rw [blakeBlocks]
    split
    · exact blakeCompress_length hh ..
    · exact ih (blakeCompress_length hh ..) ..

theorem littleBytes_length (w : Nat) : (littleBytes w).length = 8 := by
  simp [littleBytes]

theorem flatMap_littleBytes_length (ws : List Nat) :
    (ws.flatMap littleBytes).length = 8 * ws.length := by
  simp [List.length_flatMap, littleBytes_length, Nat.mul_comm]

/-- A digest has the length asked for, up to the 64 bytes of the chaining words. -/
theorem blake2b_length {size : Nat} (hsize : size ≤ 64) (b : Bytes) :
    (blake2b size b).length = size := by
  have hwords := blakeBlocks_length (b.length + 1)
    (h := List.zipWith (· ^^^ ·) blakeIv [0x01010000 + size, 0, 0, 0, 0, 0, 0, 0]) rfl b 0
  rw [blake2b, List.length_take, flatMap_littleBytes_length, hwords]
  exact min_eq_left hsize

theorem blake2b256_length (b : Bytes) : (blake2b256 b).length = 32 :=
  blake2b_length (by decide) b

/-- The digest as the 32 bytes that `H` returns (R7). -/
def blake2b256Vector (b : Bytes) : Vector Byte 32 := ⟨(blake2b256 b).toArray, blake2b256_length b⟩

theorem toList_blake2b256Vector (b : Bytes) : (blake2b256Vector b).toList = blake2b256 b := rfl

/-- Settles O6: the digest has 32 bytes, and so is itself a function that meets the named property. -/
theorem blake2bDigestHasThirtyTwoBytes : Obligations.Blake2bDigestHasThirtyTwoBytes :=
  ⟨blake2b256_length, blake2b256Vector, toList_blake2b256Vector⟩

end Sys2Proof.Machine

/-!
PROOFS. The statements about addresses and peers (spec/45_peers_address.md): what the two encoders write and
refuse, the entry that stands at an offset, and that decoding undoes encoding.
-/

namespace Sys2Proof.Machine

/-! ## One address (R170, R171) -/

theorem encodeAddress_ok {a : Peer} (h : a.ip.length = 4) :
    encodeAddress a = .ok (a.ip ++ be32Bits a.port) := if_neg (not_not.mpr h)

theorem encodeAddress_unsupported {a : Peer} (h : a.ip.length ≠ 4) :
    encodeAddress a = .error .unsupportedAddress := if_pos h

theorem decodeAddress_short {b : Bytes} (h : b.length < 8) :
    decodeAddress b = .error .messageTooShort := if_pos h

/-- An encoded address is read back, whatever follows it (R174). -/
theorem decodeAddress_encoded {a : Peer} (h : a.ip.length = 4) (t : Bytes) :
    decodeAddress (a.ip ++ be32Bits a.port ++ t) = .ok a := by
  have hlen : 8 ≤ (a.ip ++ be32Bits a.port ++ t).length := by
    simp only [List.length_append, h, be32Bits_length]
    omega
  rw [decodeAddress, if_neg (not_lt.mpr hlen), List.append_assoc, peerAt_entry h]

/-! ## A list of peers (R172, R173) -/

theorem encodePeers_overflow {ps : List Peer} (h : 2 ^ 32 - 1 < ps.length) :
    encodePeers ps = .error .lengthOverflow := if_pos h

/-- A count that fits leaves the status to the entries. -/
theorem encodePeers_unsupported {ps : List Peer} (hn : ps.length ≤ 2 ^ 32 - 1)
    (h : ∃ a ∈ ps, a.ip.length ≠ 4) : encodePeers ps = .error .unsupportedAddress := by
  rw [encodePeers, if_neg (not_lt.mpr hn), encodeEntries_error h]

/-- A number that fits a u32 is written as that u32 is (R43, R100). -/
theorem be32Bits_ofNat {n : Nat} (h : n < 2 ^ 32) : be32Bits (BitVec.ofNat 32 n) = beBytes 4 n := by
  rw [be32Bits, BitVec.toNat_ofNat, Nat.mod_eq_of_lt h]

/-- The peer read after the first `k` bytes, by its offsets in the whole string (R66). -/
theorem peerAt_drop (b : Bytes) (k : Nat) :
    peerAt (b.drop k) = ⟨byteSlice b k (k + 4), BitVec.ofNat 32 (rdBe b (k + 4) 4)⟩ := by
  simp only [peerAt, u32At, rdBe_eq, byteSlice, List.drop_drop, Nat.add_zero, Nat.sub_zero,
    Nat.add_sub_cancel_left]

/-- Entry `i` of a Peers payload stands at offset `4 + 8i` (R66, R173). -/
theorem payloadEntry_getElem? {n i : Nat} (b : Bytes) (h : i < n) :
    (entriesAt n (b.drop 4))[i]? = some
      ⟨byteSlice b (4 + 8 * i) (8 + 8 * i), BitVec.ofNat 32 (rdBe b (8 + 8 * i) 4)⟩ := by
  have hend : 4 + 8 * i + 4 = 8 + 8 * i := by omega
  rw [entriesAt_getElem? _ h, List.drop_drop, peerAt_drop, hend]

/-! ## The obligations -/

/-- Settles O7: the length of the ip decides, and the port's bytes are those of its word. -/
theorem addrEncWritesAddressAndPort : Obligations.AddrEncWritesAddressAndPort := by
  intro a s
  rw [← be32Bits_eq]
  exact ⟨fun h => answers_of_ok (encodeAddress_ok h) s,
    fun h => answers_of_error (encodeAddress_unsupported h) s⟩

/-- Settles O8: any eight bytes are the encoding of the peer whose fields stand in them. -/
theorem addrDecReadsEightBytes : Obligations.AddrDecReadsEightBytes := by
  intro s
  refine ⟨fun _ h => answers_of_error (decodeAddress_short h) s, ?_⟩
  intro x0 x1 x2 x3 p0 p1 p2 p3 t
  have hread := decodeAddress_encoded (a := ⟨[x0, x1, x2, x3], p0 ++ p1 ++ p2 ++ p3⟩) rfl t
  rw [be32Bits_append] at hread
  exact answers_of_ok hread s

/-- Settles O9, one outcome of the encoder at a time. -/
theorem peersEncWritesCountAndEntries : Obligations.PeersEncWritesCountAndEntries := by
  intro ps s
  refine ⟨fun hn => answers_of_error (encodePeers_overflow hn) s,
    fun hn hbad => answers_of_error (encodePeers_unsupported hn hbad) s, fun hn hip => ?_⟩
  have hcount : ps.length < 2 ^ 32 := by omega
  rw [be32Bits_ofNat hcount]
  exact answers_of_ok (encodePeers_eq hcount hip) s

/-- Settles O10: the two length checks decide, and the entries read are those at their offsets. -/
theorem peersDecReadsCountedEntries : Obligations.PeersDecReadsCountedEntries := by
  intro b s
  rcases decodePeers_cases b with ⟨hl, e⟩ | ⟨h4, hl, e⟩ | ⟨h4, hl, e⟩
  · exact ⟨fun _ => answers_of_error e s, fun _ => by omega, fun _ => by omega⟩
  · exact ⟨fun _ => by omega, fun _ _ => answers_of_error e s, fun _ => by omega⟩
  · exact ⟨fun _ => by omega, fun _ => by omega, fun _ _ => ⟨_, answers_of_ok e s,
      entriesAt_length _ _, fun _ hi => payloadEntry_getElem? b hi⟩⟩

/-- Settles O11: each decoder reads back what its encoder wrote. -/
theorem peersRoundTrip : Obligations.PeersRoundTrip :=
  ⟨fun _ t s h => ⟨_, answers_of_ok (encodeAddress_ok h) s,
      answers_of_ok (decodeAddress_encoded h t) s⟩,
    fun _ t s h hn => ⟨_, answers_of_ok (encodePeers_eq hn h) s,
      answers_of_ok (decodePeers_encoded hn h t) s⟩⟩

end Sys2Proof.Machine

/-!
PROOFS. The statements about the frame reassembler (spec/46_reassembler.md): what a chunk does in each mode,
the drain of BUF as an equation per way a pass can go, and that a drain keeps every byte, cuts a stream into
its frames and does not see where one chunk ends and the next begins.
-/

namespace Sys2Proof.Machine

/-! ## A faulted block, an empty chunk, the handshake chunk (R192, R196, R197) -/

/-- R196: a faulted block refuses a chunk. -/
theorem exec_rxChunk_faulted {s : State} (hf : s.fault = true) (c : Bytes) :
    exec (.rxChunk c) s = .next (s.setAnswer ⟨.error .frameTooLarge, none⟩) := if_pos hf

/-- R197: an empty chunk does nothing. -/
theorem exec_rxChunk_nil {s : State} (hf : s.fault = false) :
    exec (.rxChunk []) s = .next (s.setAnswer ⟨.ok, some (.events [])⟩) :=
  if_neg (Bool.eq_false_iff.mp hf)

/-- R192: the handshake chunk. -/
theorem exec_rxChunk_handshake {c : Bytes} {s : State} (hf : s.fault = false)
    (hm : s.rxMode = .handshake) (hc : c ≠ []) :
    exec (.rxChunk c) s = .next (State.setAnswer ⟨.ok, some (.events [handshakeEvent c])⟩
      { s with rxMode := .framed }) := by
  change execRxChunk c s = _
  rcases execRxChunk_cases c s with ⟨h, _⟩ | ⟨_, h, _⟩ | ⟨_, _, _, e⟩ | ⟨_, _, h, _⟩
  · simp [hf] at h
  · exact absurd h hc
  · exact e
  · simp [hm] at h

theorem handshakeEvent_of_ok {c : Bytes} {h : Handshake} {n : Nat}
    (hd : decodeHandshake c = .ok (h, n)) : handshakeEvent c = .handshake .ok (some h) n := by
  rw [handshakeEvent, hd]

theorem handshakeEvent_of_error {c : Bytes} {e : ErrorCode} (hd : decodeHandshake c = .error e) :
    handshakeEvent c = .handshake (.error e) none 0 := by
  rw [handshakeEvent, hd]

/-- Settles O26: a codec command leaves the four items alone, and a chunk that would be read needs an
unfaulted block. -/
theorem faultedBlockRefusesChunks : Obligations.FaultedBlockRefusesChunks := by
  intro s hf
  refine ⟨exec_rxChunk_faulted hf, fun i t hi h => ?_, _, exec_reset s, rfl⟩
  obtain ⟨u, a, rfl, hu⟩ := exec_effect h
  cases hu with
  | unchanged => exact ⟨hf, rfl, rfl, rfl⟩
  | cleared hr => exact absurd hr hi
  | greeted _ _ _ hn _ => simp [hf] at hn
  | drained _ _ _ hn _ => simp [hf] at hn

/-- Settles O27. -/
theorem emptyChunkDoesNothing : Obligations.EmptyChunkDoesNothing := fun _ hf => exec_rxChunk_nil hf

/-- Settles O28: the event is what the same decoder answers `HS_DEC`. -/
theorem handshakeChunkMovesToFramed : Obligations.HandshakeChunkMovesToFramed := by
  intro c s hf hm hc
  have hchunk := exec_rxChunk_handshake hf hm hc
  refine ⟨fun h n hdec => ?_, fun e hdec => ?_, ?_⟩
  · obtain ⟨_, hd, hr⟩ := ok_of_answers hdec
    cases hr
    rw [hchunk, handshakeEvent_of_ok hd]
    rfl
  · rw [hchunk, handshakeEvent_of_error (error_of_answers hdec)]
    rfl
  · cases hd : decodeHandshake c with
    | ok r => exact .inl ⟨r.1, r.2, answers_of_ok hd s⟩
    | error e => exact .inr ⟨e, answers_of_error hd s⟩

/-- Settles O30: `MSG_DEC` and the event have one computation. -/
theorem frameEventCarriesMsgDec : Obligations.FrameEventCarriesMsgDec := by
  intro f s
  refine ⟨fun m h => ?_, fun e h => ?_⟩
  · rw [frameEvent, decodeMessage_of_exec h]
    rfl
  · rw [frameEvent, error_of_answers h]
    rfl

/-! ## The drain of BUF (R191, R193 to R195) -/

/-- The loop with the fuel that is always enough (log entry 8). -/
def drain (s : State) : State × List Event := rxLoop (s.buf.length + 1) s

theorem framedStep_eq_drain (c : Bytes) (s : State) : framedStep c s = drain (bufAppend c s) := rfl

/-- The length of the next frame is known: it has been read before, or its field has arrived and
`MAX_FRAME` allows it (R193, R195). -/
def State.KnowsLength (s : State) : Prop :=
  s.target = 0 → 4 ≤ s.buf.length ∧ exceedsMaxFrame s.params (readPrefix s).target.toNat = false

/-- R193: the length field has not arrived. -/
theorem drain_of_awaitsPrefix {s : State} (h0 : s.target = 0) (h4 : s.buf.length < 4) :
    drain s = (s, []) := if_pos ⟨h0, h4⟩

/-- R195: the announced length exceeds `MAX_FRAME`. -/
theorem drain_of_oversize {s : State} (h0 : s.target = 0) (h4 : 4 ≤ s.buf.length)
    (hx : exceedsMaxFrame s.params (readPrefix s).target.toNat = true) :
    drain s = ({ readPrefix s with fault := true },
      [.fault (.error .frameTooLarge) (readPrefix s).target]) := by
  rcases rxLoop_cases s.buf.length s with ⟨_, h, _⟩ | ⟨_, _, _, e⟩ | ⟨h, _⟩ | ⟨h, _⟩
  · omega
  · exact e
  · simp [(h h0).2] at hx
  · simp [(h h0).2] at hx

/-- R194: the frame has not arrived. -/
theorem drain_of_awaitsFrame {s : State} (hk : s.KnowsLength)
    (hl : s.buf.length < (readPrefix s).target.toNat) : drain s = (readPrefix s, []) := by
  rcases rxLoop_cases s.buf.length s with ⟨h0, h, _⟩ | ⟨h0, _, hx, _⟩ | ⟨_, _, e⟩ | ⟨_, h, _⟩
  · have := (hk h0).1
    omega
  · simp [(hk h0).2] at hx
  · exact e
  · omega

/-- R194: the frame is sliced off, and the drain goes on with the rest. -/
theorem drain_of_slice {s : State} (hk : s.KnowsLength)
    (hl : (readPrefix s).target.toNat ≤ s.buf.length) :
    drain s = ((drain (sliceOff (readPrefix s))).1,
      frameEvent (bufSlice (readPrefix s).target.toNat (readPrefix s)) ::
        (drain (sliceOff (readPrefix s))).2) := by
  have hpos := readPrefix_target_pos s
  have hfuel : rxLoop s.buf.length (sliceOff (readPrefix s)) = drain (sliceOff (readPrefix s)) :=
    rxLoop_fuel _ (by simp; omega) (Nat.lt_succ_self _)
  rcases rxLoop_cases s.buf.length s with ⟨h0, h, _⟩ | ⟨h0, _, hx, _⟩ | ⟨_, h, _⟩ | ⟨_, _, e⟩
  · have := (hk h0).1
    omega
  · simp [(hk h0).2] at hx
  · omega
  · rwa [hfuel] at e

/-- The induction along a drain: the three ways it stops, and the frame it slices off before it goes on
with a shorter `BUF`. -/
theorem drain_induction {P : State → Prop}
    (awaitsPrefix : ∀ s : State, s.target = 0 → s.buf.length < 4 → P s)
    (oversize : ∀ s : State, s.target = 0 → 4 ≤ s.buf.length →
      exceedsMaxFrame s.params (readPrefix s).target.toNat = true → P s)
    (awaitsFrame : ∀ s : State, s.KnowsLength → s.buf.length < (readPrefix s).target.toNat → P s)
    (slice : ∀ s : State, s.KnowsLength → (readPrefix s).target.toNat ≤ s.buf.length →
      P (sliceOff (readPrefix s)) → P s) (s : State) : P s := by
  induction hn : s.buf.length using Nat.strong_induction_on generalizing s with
  | _ n ih =>
    rcases rxLoop_cases 0 s with ⟨h0, h4, _⟩ | ⟨h0, h4, hx, _⟩ | ⟨hk, hl, _⟩ | ⟨hk, hl, _⟩
    · exact awaitsPrefix s h0 h4
    · exact oversize s h0 h4 hx
    · exact awaitsFrame s hk hl
    · have hpos := readPrefix_target_pos s
      exact slice s hk hl (ih _ (by simp; omega) _ rfl)

/-! ## The events of a drain -/

@[simp] theorem reportsFault_nil : reportsFault [] = false := rfl

@[simp] theorem reportsFault_frameEvent_cons (f : Bytes) (es : List Event) :
    reportsFault (frameEvent f :: es) = reportsFault es := rfl

@[simp] theorem reportsFault_fault (status : Status) (n : BitVec 33) :
    reportsFault [.fault status n] = true := rfl

@[simp] theorem reportsFault_handshakeEvent (c : Bytes) : reportsFault [handshakeEvent c] = false := by
  unfold handshakeEvent
  cases decodeHandshake c <;> rfl

theorem reportsFault_append (es es' : List Event) :
    reportsFault (es ++ es') = (reportsFault es || reportsFault es') := List.any_append

/-- A drain sets `FAULT` just when it reports the fault (R195). -/
theorem drain_fault (s : State) : (drain s).1.fault = (s.fault || reportsFault (drain s).2) := by
  induction s using drain_induction with
  | awaitsPrefix s h0 h4 => simp [drain_of_awaitsPrefix h0 h4]
  | oversize s h0 h4 hx => simp [drain_of_oversize h0 h4 hx]
  | awaitsFrame s hk hl => simp [drain_of_awaitsFrame hk hl]
  | slice s hk hl ih => simpa [drain_of_slice hk hl] using ih

/-- The frames of a drain followed by the `BUF` it leaves are the `BUF` it found (R194). -/
theorem drain_conserves (s : State) : s.buf = (framesOf (drain s).2).flatten ++ (drain s).1.buf := by
  induction s using drain_induction with
  | awaitsPrefix s h0 h4 => simp [drain_of_awaitsPrefix h0 h4, framesOf]
  | oversize s h0 h4 hx => simp [drain_of_oversize h0 h4 hx, framesOf]
  | awaitsFrame s hk hl => simp [drain_of_awaitsFrame hk hl, framesOf]
  | slice s hk hl ih =>
    rw [drain_of_slice hk hl, frameEvent, framesOf, List.flatten_cons, List.append_assoc, ← ih]
    simp [bufSlice, byteSlice]

/-! ## The answer of the last request does not matter (R28) -/

theorem readPrefix_setAnswer (a : Answer) (s : State) :
    readPrefix (s.setAnswer a) = (readPrefix s).setAnswer a := by
  by_cases h0 : s.target = 0
  · rw [readPrefix_of_unset h0, readPrefix_of_unset (s := s.setAnswer a) h0]
    rfl
  · rw [readPrefix_of_set h0, readPrefix_of_set (s := s.setAnswer a) h0]

/-- A drain neither reads nor writes the answer. -/
theorem drain_setAnswer (a : Answer) (s : State) :
    drain (s.setAnswer a) = ((drain s).1.setAnswer a, (drain s).2) := by
  have htarget (s : State) : (readPrefix (s.setAnswer a)).target = (readPrefix s).target := by
    rw [readPrefix_setAnswer, setAnswer_target]
  induction s using drain_induction with
  | awaitsPrefix s h0 h4 =>
    rw [drain_of_awaitsPrefix h0 h4, drain_of_awaitsPrefix (s := s.setAnswer a) h0 h4]
  | oversize s h0 h4 hx =>
    rw [drain_of_oversize h0 h4 hx,
      drain_of_oversize (s := s.setAnswer a) h0 h4 (by rwa [htarget]), readPrefix_setAnswer]
    rfl
  | awaitsFrame s hk hl =>
    have hk' : (s.setAnswer a).KnowsLength := fun h0 => by rw [htarget]; exact hk h0
    rw [drain_of_awaitsFrame hk hl, drain_of_awaitsFrame hk' (by rwa [htarget]),
      readPrefix_setAnswer]
  | slice s hk hl ih =>
    have hk' : (s.setAnswer a).KnowsLength := fun h0 => by rw [htarget]; exact hk h0
    have hnext : sliceOff ((readPrefix s).setAnswer a) = (sliceOff (readPrefix s)).setAnswer a := rfl
    rw [drain_of_slice hk hl, drain_of_slice hk' (by rwa [htarget]), readPrefix_setAnswer, hnext, ih]
    rfl

/-! ## Bytes that arrive later (R200) -/

/-- A length that is known stays the same when more bytes arrive. -/
theorem readPrefix_bufAppend {s : State} (hk : s.target = 0 → 4 ≤ s.buf.length) (c : Bytes) :
    readPrefix (bufAppend c s) = bufAppend c (readPrefix s) := by
  by_cases h0 : s.target = 0
  · rw [readPrefix_of_unset h0, readPrefix_of_unset (s := bufAppend c s) h0, bufAppend_buf,
      frameLength_append c (hk h0)]
    rfl
  · rw [readPrefix_of_set h0, readPrefix_of_set (s := bufAppend c s) h0]

theorem State.KnowsLength.append {s : State} (hk : s.KnowsLength) (c : Bytes) :
    (bufAppend c s).KnowsLength := by
  intro h0
  obtain ⟨h4, hx⟩ := hk h0
  rw [readPrefix_bufAppend fun _ => h4]
  exact ⟨by simp; omega, hx⟩

/-- A frame that has arrived is sliced off whatever stands behind it. -/
theorem sliceOff_bufAppend {s : State} (h : s.target.toNat ≤ s.buf.length) (c : Bytes) :
    sliceOff (bufAppend c s) = bufAppend c (sliceOff s) := by
  simp [sliceOff, bufDrop, bufAppend, List.drop_append_of_le_length h]

theorem bufSlice_bufAppend {n : Nat} {s : State} (h : n ≤ s.buf.length) (c : Bytes) :
    bufSlice n (bufAppend c s) = bufSlice n s := by
  simp [bufSlice, byteSlice, List.take_append_of_le_length h]

/-- Once its length is known, whether a frame's `TARGET` has been written makes no difference: an accepted
length is not held against `MAX_FRAME` again. -/
theorem drain_readPrefix {s : State} (hk : s.KnowsLength) : drain (readPrefix s) = drain s := by
  have hne : (readPrefix s).target ≠ 0 := fun hc => by
    have := readPrefix_target_pos s
    simp [hc] at this
  have hsame : readPrefix (readPrefix s) = readPrefix s := readPrefix_of_set hne
  have hk' : (readPrefix s).KnowsLength := fun h => absurd h hne
  by_cases hl : s.buf.length < (readPrefix s).target.toNat
  · rw [drain_of_awaitsFrame hk hl, drain_of_awaitsFrame hk' (by rwa [hsame, readPrefix_buf]), hsame]
  · rw [drain_of_slice hk (by omega), drain_of_slice hk' (by rw [hsame, readPrefix_buf]; omega), hsame]

/-- R200 for the drain: bytes that arrive after a drain are drained as if they had stood in `BUF` from the
start, unless they run into a fault. -/
theorem drain_bufAppend {c : Bytes} {s : State}
    (hn : reportsFault (drain (bufAppend c s)).2 = false) :
    drain (bufAppend c s) = ((drain (bufAppend c (drain s).1)).1,
      (drain s).2 ++ (drain (bufAppend c (drain s).1)).2) := by
  induction s using drain_induction with
  | awaitsPrefix s h0 h4 =>
    rw [drain_of_awaitsPrefix h0 h4]
    rfl
  | oversize s h0 h4 hx =>
    have hx' : exceedsMaxFrame (bufAppend c s).params
        (readPrefix (bufAppend c s)).target.toNat = true := by
      rwa [readPrefix_bufAppend fun _ => h4]
    rw [drain_of_oversize (s := bufAppend c s) h0 (by simp; omega) hx'] at hn
    simp at hn
  | awaitsFrame s hk hl =>
    rw [drain_of_awaitsFrame hk hl, ← readPrefix_bufAppend fun h0 => (hk h0).1,
      drain_readPrefix (hk.append c)]
    rfl
  | slice s hk hl ih =>
    have hread := readPrefix_bufAppend (fun h0 => (hk h0).1) c
    have hbuf : (readPrefix s).target.toNat ≤ (readPrefix s).buf.length := by simpa using hl
    have hlater : (readPrefix (bufAppend c s)).target.toNat ≤ (bufAppend c s).buf.length := by
      rw [hread]
      simp
      omega
    have hwhole := drain_of_slice (hk.append c) hlater
    rw [hread, bufAppend_target, sliceOff_bufAppend hbuf, bufSlice_bufAppend hbuf] at hwhole
    rw [hwhole, reportsFault_frameEvent_cons] at hn
    rw [hwhole, ih hn, drain_of_slice hk hl]
    rfl

/-! ## One chunk in FRAMED mode (R191, R197) -/

/-- What `RX_CHUNK` does to an unfaulted framed block: an empty chunk does nothing, any other is appended
and drained. -/
def chunkStep (c : Bytes) (s : State) : State × List Event :=
  if c = [] then (s, []) else drain (bufAppend c s)

@[simp] theorem chunkStep_nil (s : State) : chunkStep [] s = (s, []) := rfl

theorem chunkStep_of_ne_nil {c : Bytes} (hc : c ≠ []) (s : State) :
    chunkStep c s = drain (bufAppend c s) := if_neg hc

theorem exec_rxChunk_framed {s : State} (hf : s.fault = false) (hm : s.rxMode = .framed) (c : Bytes) :
    exec (.rxChunk c) s = .next
      ((chunkStep c s).1.setAnswer ⟨.ok, some (.events (chunkStep c s).2)⟩) := by
  by_cases hc : c = []
  · rw [hc, exec_rxChunk_nil hf, chunkStep_nil]
  · rw [chunkStep_of_ne_nil hc, ← framedStep_eq_drain]
    change execRxChunk c s = _
    rcases execRxChunk_cases c s with ⟨h, _⟩ | ⟨_, h, _⟩ | ⟨_, _, h, _⟩ | ⟨_, _, _, e⟩
    · simp [hf] at h
    · exact absurd h hc
    · simp [hm] at h
    · exact e

/-- The state and the events behind an answer in `FRAMED` mode. -/
theorem eq_chunkStep_of_exec {c : Bytes} {s t : State} {es : List Event} (hf : s.fault = false)
    (hm : s.rxMode = .framed) (h : exec (.rxChunk c) s = .next t)
    (ha : t.answer = some ⟨.ok, some (.events es)⟩) :
    es = (chunkStep c s).2 ∧ t = (chunkStep c s).1.setAnswer ⟨.ok, some (.events es)⟩ := by
  rw [exec_rxChunk_framed hf hm] at h
  obtain rfl := Host.Outcome.next.inj h
  cases ha
  exact ⟨rfl, rfl⟩

theorem chunkStep_rxMode (c : Bytes) (s : State) : (chunkStep c s).1.rxMode = s.rxMode := by
  by_cases hc : c = []
  · rw [hc, chunkStep_nil]
  · rw [chunkStep_of_ne_nil hc]
    exact (framedStep_frame c s).1

theorem chunkStep_fault (c : Bytes) (s : State) :
    (chunkStep c s).1.fault = (s.fault || reportsFault (chunkStep c s).2) := by
  by_cases hc : c = []
  · simp [hc]
  · rw [chunkStep_of_ne_nil hc, drain_fault, bufAppend_fault]

theorem chunkStep_setAnswer (a : Answer) (c : Bytes) (s : State) :
    chunkStep c (s.setAnswer a) = ((chunkStep c s).1.setAnswer a, (chunkStep c s).2) := by
  by_cases hc : c = []
  · rw [hc, chunkStep_nil, chunkStep_nil]
  · rw [chunkStep_of_ne_nil hc, chunkStep_of_ne_nil hc]
    exact drain_setAnswer a (bufAppend c s)

/-- A chunk that follows another command: its answer is written over. -/
theorem exec_rxChunk_setAnswer {s : State} (hf : s.fault = false) (hm : s.rxMode = .framed)
    (c : Bytes) (a : Answer) : exec (.rxChunk c) (s.setAnswer a) = .next
      ((chunkStep c s).1.setAnswer ⟨.ok, some (.events (chunkStep c s).2)⟩) := by
  rw [exec_rxChunk_framed (s := s.setAnswer a) hf hm, chunkStep_setAnswer]
  rfl

/-- R200: two chunks do what their concatenation does, if that runs into no fault. -/
theorem chunkStep_append {c c' : Bytes} {s : State}
    (hn : reportsFault (chunkStep (c ++ c') s).2 = false) :
    chunkStep (c ++ c') s = ((chunkStep c' (chunkStep c s).1).1,
      (chunkStep c s).2 ++ (chunkStep c' (chunkStep c s).1).2) := by
  by_cases hc : c = []
  · simp [hc]
  by_cases hc' : c' = []
  · simp [hc']
  have happend : bufAppend (c ++ c') s = bufAppend c' (bufAppend c s) := by
    simp [bufAppend]
  rw [chunkStep_of_ne_nil (by simp [hc]), happend] at hn ⊢
  rw [chunkStep_of_ne_nil hc, chunkStep_of_ne_nil hc']
  exact drain_bufAppend hn

/-- The first of two chunks that together run into no fault leaves an unfaulted block. -/
theorem chunkStep_fault_of_append {c c' : Bytes} {s : State} (hf : s.fault = false)
    (hn : reportsFault (chunkStep (c ++ c') s).2 = false) : (chunkStep c s).1.fault = false := by
  rw [chunkStep_append hn, reportsFault_append, Bool.or_eq_false_iff] at hn
  rw [chunkStep_fault, hf, hn.1, Bool.or_false]

/-- Settles O29: the two ways to wait, with the length just read or read before. -/
theorem incompleteFrameWaits : Obligations.IncompleteFrameWaits := by
  intro c s hf hm hc
  have hexec := exec_rxChunk_framed hf hm c
  rw [chunkStep_of_ne_nil hc] at hexec
  refine ⟨fun h0 h4 => ?_, fun h0 h4 hl hx => ?_, fun h0 hl => ?_⟩
  · rw [hexec, drain_of_awaitsPrefix (s := bufAppend c s) h0 h4]
    rfl
  · have hread := readPrefix_of_unset (s := bufAppend c s) h0
    have htarget := readPrefix_target_of_unset (s := bufAppend c s) h0
    have hk : (bufAppend c s).KnowsLength := fun _ => ⟨h4, by rw [htarget]; exact hx⟩
    refine ⟨_, htarget, ?_⟩
    rw [hexec, drain_of_awaitsFrame hk (by rw [htarget]; exact hl), hread]
    rfl
  · have hread : readPrefix (bufAppend c s) = bufAppend c s := readPrefix_of_set h0
    have hk : (bufAppend c s).KnowsLength := fun h => absurd h h0
    rw [hexec, drain_of_awaitsFrame hk (by rw [hread]; exact hl), hread]
    rfl

/-- Settles O35: an empty chunk changes nothing, and a drain conserves what it finds in `BUF`. -/
theorem framedBytesAreConserved : Obligations.FramedBytesAreConserved := by
  intro c s t es hm hf h ha
  obtain ⟨rfl, rfl⟩ := eq_chunkStep_of_exec hf hm h ha
  rw [setAnswer_buf]
  by_cases hc : c = []
  · simp [hc, framesOf]
  · rw [chunkStep_of_ne_nil hc]
    exact drain_conserves (bufAppend c s)

/-- Settles O33. -/
theorem chunkBoundariesDoNotMatter : Obligations.ChunkBoundariesDoNotMatter := by
  intro c1 c2 s t es hm hf h ha hn
  obtain ⟨rfl, rfl⟩ := eq_chunkStep_of_exec hf hm h ha
  have hsplit := chunkStep_append hn
  have hf1 := chunkStep_fault_of_append hf hn
  have hm1 := (chunkStep_rxMode c1 s).trans hm
  refine ⟨_, _, _, _, exec_rxChunk_framed hf hm c1, rfl, exec_rxChunk_setAnswer hf1 hm1 c2 _, rfl,
    ?_, ?_⟩
  · rw [hsplit]
  · rw [hsplit]
    rfl

/-- `RX_STREAM` of chunks that together run into no fault is the one chunk, its events behind those
already collected (R76, R200). -/
theorem runStream_eq {cs : List Bytes} {before : List Event} {s : State} (hf : s.fault = false)
    (hm : s.rxMode = .framed) (hn : reportsFault (chunkStep cs.flatten s).2 = false) :
    runStream before cs s = .next ((chunkStep cs.flatten s).1.setAnswer
      ⟨.ok, some (.events (before ++ (chunkStep cs.flatten s).2))⟩) := by
  induction cs generalizing before s with
  | nil => simp [runStream, returns_eq]
  | cons c cs ih =>
    rw [List.flatten_cons] at hn ⊢
    have hsplit := chunkStep_append hn
    have hf1 := chunkStep_fault_of_append hf hn
    have hm1 := (chunkStep_rxMode c s).trans hm
    rw [hsplit, reportsFault_append, Bool.or_eq_false_iff] at hn
    have hrest := ih (before := before ++ (chunkStep c s).2)
      (s := (chunkStep c s).1.setAnswer ⟨.ok, some (.events (chunkStep c s).2)⟩) hf1 hm1
      (by rw [chunkStep_setAnswer]; exact hn.2)
    rw [runStream, exec_rxChunk_framed hf hm, onOk_setAnswer_ok]
    dsimp only
    rw [hrest, chunkStep_setAnswer, hsplit, List.append_assoc]
    rfl

/-- Settles O34. -/
theorem anyChunkingGivesTheSameStream : Obligations.AnyChunkingGivesTheSameStream := by
  intro cs s t es hm hf h ha hn
  obtain ⟨rfl, rfl⟩ := eq_chunkStep_of_exec hf hm h ha
  exact runStream_eq hf hm hn

/-! ## A stream of frames (R194, R195) -/

/-- The block with other bytes in `BUF` and another `TARGET`. -/
def State.holding (rest : Bytes) (target : BitVec 33) (s : State) : State :=
  { s with buf := rest, target := target }

theorem readPrefix_holding (rest : Bytes) (v : BitVec 33) (s : State) :
    readPrefix (s.holding rest v) = s.holding rest (readPrefix (s.holding rest v)).target := by
  unfold readPrefix
  split <;> rfl

theorem sliceOff_readPrefix (s : State) :
    sliceOff (readPrefix s) = s.holding (s.buf.drop (readPrefix s).target.toNat) 0 := by
  unfold readPrefix
  split <;> rfl

/-- A drain that finds a complete frame at the head of `BUF` slices it off (R194). -/
theorem drain_of_completeFrame {f more : Bytes} {s : State} (hs : s.Draining)
    (hf : CompleteFrame s.params f) (hb : s.buf = f ++ more) :
    drain s = ((drain (s.holding more 0)).1, frameEvent f :: (drain (s.holding more 0)).2) ∧
      (s.holding more 0).Draining := by
  obtain ⟨h4, hlen, hx⟩ := hf
  have hhead : frameLength s.buf = f.length := by rw [hb, frameLength_append more h4, ← hlen]
  have hk : s.KnowsLength := fun h0 => by
    rw [readPrefix_target_of_unset h0, hhead]
    exact ⟨by simp [hb]; omega, hx⟩
  obtain ⟨htarget, _⟩ := hs.target_accepted hk
  rw [hhead] at htarget
  have hnext : sliceOff (readPrefix s) = s.holding more 0 := by
    rw [sliceOff_readPrefix, htarget, hb, List.drop_left]
  have hframe : bufSlice (readPrefix s).target.toNat (readPrefix s) = f := by
    simp [bufSlice, byteSlice, htarget, hb]
  have hslice := drain_of_slice hk (by rw [htarget, hb]; simp)
  rw [hnext, hframe] at hslice
  exact ⟨hslice, hnext ▸ hs.slice⟩

/-- A drain emits the complete frames at the head of `BUF`, in order, and goes on with what follows
them. -/
theorem drain_of_frames {fs : List Bytes} {rest : Bytes} {s : State} (hs : s.Draining)
    (hfs : ∀ f ∈ fs, CompleteFrame s.params f) (hb : s.buf = fs.flatten ++ rest) :
    ∃ v, (s.holding rest v).Draining ∧
      drain s = ((drain (s.holding rest v)).1,
        fs.map frameEvent ++ (drain (s.holding rest v)).2) := by
  induction fs generalizing s with
  | nil =>
    obtain rfl : s.buf = rest := hb
    exact ⟨s.target, hs, rfl⟩
  | cons f fs ih =>
    rw [List.flatten_cons, List.append_assoc] at hb
    obtain ⟨hdrain, hs'⟩ := drain_of_completeFrame hs (hfs f List.mem_cons_self) hb
    obtain ⟨v, hv, hrest⟩ := ih hs' (fun g hg => hfs g (List.mem_cons_of_mem f hg)) rfl
    refine ⟨v, hv, ?_⟩
    rw [hdrain, hrest]
    rfl

/-- A drain keeps an incomplete frame in `BUF`, with `TARGET` as its length field says, if that has
arrived (R193). -/
theorem drain_of_incompleteFrame {rest : Bytes} {v : BitVec 33} {s : State}
    (hs : (s.holding rest v).Draining) (hr : IncompleteFrame s.params rest) :
    ∃ target : BitVec 33, target.toNat = (if rest.length < 4 then 0 else frameLength rest) ∧
      drain (s.holding rest v) = (s.holding rest target, []) := by
  by_cases h4 : rest.length < 4
  · have h0 : v = 0 := by
      by_contra hv
      exact absurd h4 (not_lt.mpr (hs.target hv).1)
    subst h0
    exact ⟨0, by simp [h4], drain_of_awaitsPrefix rfl h4⟩
  · obtain ⟨hl, hx⟩ := hr.resolve_left h4
    have hk : (s.holding rest v).KnowsLength := fun h0 => by
      rw [readPrefix_target_of_unset h0]
      exact ⟨not_lt.mp h4, hx⟩
    obtain ⟨htarget, _⟩ := hs.target_accepted hk
    refine ⟨_, htarget.trans (if_neg h4).symm, ?_⟩
    rw [← readPrefix_holding]
    exact drain_of_awaitsFrame hk (by rw [htarget]; exact hl)

/-- A drain faults on a length over `MAX_FRAME`: no drain has accepted it before (R195). -/
theorem drain_of_oversizePrefix {rest : Bytes} {v : BitVec 33} {s : State}
    (hs : (s.holding rest v).Draining) (hr : OversizePrefix s.params rest) :
    ∃ target : BitVec 33, target.toNat = frameLength rest ∧
      drain (s.holding rest v) = ({ s.holding rest target with fault := true },
        [.fault (.error .frameTooLarge) target]) := by
  obtain ⟨h4, hx⟩ := hr
  have h0 : (s.holding rest v).target = 0 := by
    by_contra hv
    obtain ⟨_, hlen, hacc⟩ := hs.target hv
    rw [hlen] at hacc
    exact absurd hx (Bool.eq_false_iff.mp hacc)
  have htarget := readPrefix_target_of_unset h0
  refine ⟨_, htarget, ?_⟩
  rw [← readPrefix_holding]
  exact drain_of_oversize h0 h4 (by rw [htarget]; exact hx)

/-- Settles O31: the chunk starts a drain, which emits the frames and waits with the rest. -/
theorem streamOfFramesIsEmittedInOrder : Obligations.StreamOfFramesIsEmittedInOrder := by
  intro fs rest c s hinv hf hm hc hb hfs hr
  obtain ⟨v, hv, hframes⟩ := drain_of_frames (.of_append hf hm hinv) hfs hb
  obtain ⟨target, htarget, hrest⟩ := drain_of_incompleteFrame hv hr
  refine ⟨target, htarget, ?_⟩
  rw [exec_rxChunk_framed hf hm, chunkStep_of_ne_nil hc, hframes, hrest, List.append_nil]
  rfl

/-- With `MAX_FRAME = INF` no chunk sets `FAULT` or reports a fault, in either mode (R195). -/
theorem exec_rxChunk_unbounded (c : Bytes) {s : State} (hmax : s.params.maxFrame = none)
    (hf : s.fault = false) :
    ∃ t es, exec (.rxChunk c) s = .next t ∧ t.answer = some ⟨.ok, some (.events es)⟩ ∧
      t.fault = false ∧ reportsFault es = false := by
  by_cases hc : c = []
  · subst hc
    exact ⟨_, _, exec_rxChunk_nil hf, rfl, hf, rfl⟩
  cases hm : s.rxMode with
  | handshake =>
    exact ⟨_, _, exec_rxChunk_handshake hf hm hc, rfl, hf, reportsFault_handshakeEvent c⟩
  | framed =>
    have hfault : (chunkStep c s).1.fault = false := by
      rw [chunkStep_of_ne_nil hc, ← framedStep_eq_drain]
      by_contra ht
      obtain ⟨m, hm⟩ := framedStep_fault hf (Bool.eq_true_of_not_eq_false ht)
      simp [hmax] at hm
    have hevents := hfault
    rw [chunkStep_fault, Bool.or_eq_false_iff] at hevents
    exact ⟨_, _, exec_rxChunk_framed hf hm c, rfl, hfault, hevents.2⟩

/-- Settles O32: the chunk starts a drain, which emits the frames and then faults. -/
theorem oversizePrefixFaults : Obligations.OversizePrefixFaults := by
  refine ⟨fun fs rest c s hinv hf hm hc hb hfs hr => ?_, fun c s => exec_rxChunk_unbounded c⟩
  obtain ⟨v, hv, hframes⟩ := drain_of_frames (.of_append hf hm hinv) hfs hb
  obtain ⟨target, htarget, hrest⟩ := drain_of_oversizePrefix hv hr
  refine ⟨target, htarget, ?_⟩
  rw [exec_rxChunk_framed hf hm, chunkStep_of_ne_nil hc, hframes, hrest]
  rfl

end Sys2Proof.Machine

/-!
PROOFS. The statements about the control commands (spec/47_control.md): what `RESET` writes, and what an
opcode that is no command answers.
-/

namespace Sys2Proof.Machine

/-! ## RESET (R220) -/

/-- The reset values overwrite all that a first `RESET` wrote, and no answer is read (R28, R220). -/
theorem clearConnection_idempotent (a : Answer) (s : State) :
    clearConnection ((clearConnection s).setAnswer a) = (clearConnection s).setAnswer a := rfl

/-- Settles O38: both times `exec_reset` says what is written. -/
theorem resetWritesResetValues : Obligations.ResetWritesResetValues := by
  intro s
  refine ⟨(clearConnection s).setAnswer ⟨.ok, none⟩, rfl, exec_reset s, ?_⟩
  rw [exec_reset, clearConnection_idempotent]
  rfl

/-! ## Illegal opcodes (R221) -/

/-- A byte outside R72 is rejected by the decoder, whatever the operands. -/
theorem decode_error_of_illegalOpcode {op : Byte} (h : op ∉ commandOpcodes) (a : Operands) :
    ∃ e, decode ⟨.command, op, a⟩ = .error e := by
  cases hd : decode ⟨.command, op, a⟩ with
  | ok i => exact absurd ((decode_command_iff op a).mp ⟨i, hd⟩) h
  | error e => exact ⟨e, rfl⟩

/-- What the command port rejects answers `IllegalCommand`, with no operand read. -/
theorem execRejected_command (op : Byte) (a : Operands) (s : State) :
    execRejected ⟨.command, op, a⟩ s = .next (s.setAnswer ⟨.error .illegalCommand, none⟩) := rfl

/-- Settles O40: the request does not decode, so the step rejects it. -/
theorem illegalOpcodeAnswersIllegalCommand : Obligations.IllegalOpcodeAnswersIllegalCommand := by
  intro op args rest s hop
  obtain ⟨e, hd⟩ := decode_error_of_illegalOpcode hop args
  rw [step_of_decode_error rfl hd, execRejected_command]
  rfl

end Sys2Proof.Machine

/-!
PROOFS. The statements about errors and idle steps (spec/60_exceptions.md) and about power-on and the boot
sequence (spec/70_reset_and_hazards.md).
-/

namespace Sys2Proof.Machine

/-! ## The status codes (R240) -/

/-- The statuses in the order of R240's numbers. -/
def listedStatuses : List Status :=
  [.ok, .error .messageTooShort, .error .invalidAddressLength, .error .invalidAddress,
   .error .invalidPort, .error .nameTooLong, .error .unsupportedAddress, .error .lengthOverflow,
   .error .frameTooLarge, .error .illegalCommand, .error .invalidRecord]

/-- The code of a status is its place in the list. -/
theorem listedStatuses_code (s : Status) : listedStatuses[s.code.toNat]? = some s := by
  cases s with
  | ok => rfl
  | error e => cases e <;> rfl

theorem Status.code_injective {s t : Status} (h : s.code = t.code) : s = t :=
  Option.some.inj <|
    calc some s = listedStatuses[s.code.toNat]? := (listedStatuses_code s).symm
      _ = listedStatuses[t.code.toNat]? := by rw [h]
      _ = some t := listedStatuses_code t

theorem Status.code_le (s : Status) : s.code.toNat ≤ 0x0A := by
  obtain ⟨hlt, _⟩ := List.getElem?_eq_some_iff.mp (listedStatuses_code s)
  exact Nat.le_of_lt_succ hlt

/-- Settles O55: the codes are places in a list of eleven, so they differ and are below 11. -/
theorem statusCodesAreTheListedOnes : Obligations.StatusCodesAreTheListedOnes :=
  ⟨rfl, rfl, rfl, rfl, rfl, rfl, rfl, rfl, rfl, rfl, rfl, fun _ _ => Status.code_injective,
    Status.code_le⟩

/-! ## A command that ends in an error (R242) -/

/-- `RESET` always answers `OK` (R220). -/
theorem ne_reset_of_error {i : Instr} {s t : State} {a : Answer} {e : ErrorCode}
    (h : exec i s = .next t) (ha : t.answer = some a) (he : a.status = .error e) : i ≠ .reset := by
  rintro rfl
  rw [exec_reset] at h
  obtain rfl := Host.Outcome.next.inj h
  cases ha
  cases he

theorem result_eq_none_of_error {i : Instr} {s t : State} {a : Answer} {e : ErrorCode}
    (h : exec i s = .next t) (ha : t.answer = some a) (he : a.status = .error e) :
    a.result = none := by
  obtain ⟨u, b, hu, hb, hresult⟩ := exec_answersWithResult (ne_reset_of_error h ha he) s
  obtain rfl := Host.Outcome.next.inj (h.symm.trans hu)
  obtain rfl := Option.some.inj (ha.symm.trans hb)
  simpa [he] using hresult

/-- A chunk that is not refused answers `OK` (R191, R196). -/
theorem execRxChunk_of_error {c : Bytes} {s t : State} {a : Answer} {e : ErrorCode}
    (h : execRxChunk c s = .next t) (ha : t.answer = some a) (he : a.status = .error e) :
    t = s.setAnswer a := by
  rcases execRxChunk_cases c s with ⟨_, hx⟩ | ⟨_, _, hx⟩ | ⟨_, _, _, hx⟩ | ⟨_, _, _, hx⟩ <;>
    obtain rfl := Host.Outcome.next.inj (h.symm.trans hx) <;> cases ha
  · rfl
  · cases he
  · cases he
  · cases he

/-- The commands that write state, `RESET` and a chunk that is read, answer `OK`; so an error leaves
everything but the answer. -/
theorem eq_setAnswer_of_error {i : Instr} {s t : State} {a : Answer} {e : ErrorCode}
    (h : exec i s = .next t) (ha : t.answer = some a) (he : a.status = .error e) :
    t = s.setAnswer a := by
  by_cases hc : ∃ c, i = .rxChunk c
  · obtain ⟨c, rfl⟩ := hc
    exact execRxChunk_of_error h ha he
  · obtain ⟨b, hb⟩ := exec_codec i (ne_reset_of_error h ha he) (not_exists.mp hc)
    obtain rfl := Host.Outcome.next.inj (h.symm.trans (hb s))
    obtain rfl := Option.some.inj ha
    rfl

/-- Settles O47. -/
theorem errorsWriteNoState : Obligations.ErrorsWriteNoState := by
  intro i s t ⟨status, result⟩ e h ha he
  have hresult := result_eq_none_of_error h ha he
  have ht := eq_setAnswer_of_error h ha he
  obtain rfl : status = .error e := he
  obtain rfl : result = none := hresult
  exact ⟨rfl, ht⟩

/-! ## Idle steps (R252) -/

/-- Settles O45. -/
theorem idleStepKeepsTheState : Obligations.IdleStepKeepsTheState := by
  intro s hp
  simp only [step, hp]

/-! ## Power-on and the boot sequence (R270, R272) -/

/-- `RESET` leaves the reset values, with the parameters and the pending requests as they were. -/
theorem clearConnection_eq (s : State) :
    clearConnection s =
      { State.powerOn s.params with pending := s.pending, answer := s.answer } := rfl

/-- Settles O39. -/
theorem powerOnIsTheStateResetLeaves : Obligations.PowerOnIsTheStateResetLeaves := by
  refine fun p => ⟨rfl, rfl, rfl, rfl, fun s t hp h => ?_⟩
  subst hp
  rw [exec_reset, clearConnection_eq] at h
  obtain rfl := Host.Outcome.next.inj h
  rfl

/-- A run starts with the instruction whose encoding is pending first. -/
theorem run_succ_of_encoded {s t : State} {i : Instr} {rest : List Request} (k : Nat)
    (hp : s.pending = encode i :: rest) (h : exec i { s with pending := rest } = .next t) :
    Host.Core.run Sys2Proof.core (k + 1) s = Host.Core.run Sys2Proof.core k t :=
  run_succ k ((step_of_decode_ok hp (decode_encode i)).trans h)

theorem exec_hsEnc (h : Handshake) (s : State) :
    exec (.hsEnc h) s = .next (s.setAnswer (answerOf .bytes (encodeHandshake h))) :=
  answers_eq _ _ s

/-- What the first two requests of a connection leave: the reset values, the chunks pending, and the
greeting's answer. -/
def bootedState (s : State) (greeting : Handshake) (chunks : List Bytes) : State :=
  { State.powerOn s.params with
    pending := chunks.map fun c => encode (.rxChunk c)
    answer := some (answerOf .bytes (encodeHandshake greeting)) }

theorem run_bootSequence (s : State) (greeting : Handshake) (chunks : List Bytes) :
    Host.Core.run Sys2Proof.core 2 { s with pending := bootSequence greeting chunks } =
      .next (bootedState s greeting chunks) := by
  calc Host.Core.run Sys2Proof.core 2 { s with pending := bootSequence greeting chunks }
      = Host.Core.run Sys2Proof.core 1 ((clearConnection
          { s with pending := (bootSequence greeting chunks).tail }).setAnswer ⟨.ok, none⟩) :=
        run_succ_of_encoded 1 rfl (exec_reset _)
    _ = Host.Core.run Sys2Proof.core 0 (bootedState s greeting chunks) :=
        run_succ_of_encoded 0 rfl (exec_hsEnc greeting _)
    _ = .next (bootedState s greeting chunks) := rfl

/-- Settles O58: an encodable greeting is written, with the same bytes in every state. -/
theorem bootSequenceStartsConnection : Obligations.BootSequenceStartsConnection := by
  refine fun s greeting chunks =>
    ⟨bootedState s greeting chunks, run_bootSequence s greeting chunks, rfl, rfl, fun hh => ?_⟩
  obtain ⟨w, hw⟩ := encodeHandshake_of_encodable hh
  refine ⟨w, ?_, answers_of_ok hw⟩
  rw [bootedState, hw]
  rfl

end Sys2Proof.Machine
